-- ==== Sys2Proof/Word.lean ====
section
/-! DEFINITION. The word types of the block: a byte of a FIFO or of host memory, a 16-bit command word or
field, a 32-bit register (R23, R45, R111). -/

namespace Sys2Proof

/-- One byte: a FIFO entry (R45) or a byte of host memory (R95). -/
abbrev Byte := BitVec 8

/-- Sixteen bits: a command word (R110), CLK.CDIV (R42), DLEN.LEN (R43). -/
abbrev Half := BitVec 16

/-- One register or data phase of the bus: 32 bits (R82, R84). -/
abbrev Word := BitVec 32

end Sys2Proof
end

