-- ==== Sys2Proof/Config.lean ====
section
/-! DEFINITION. The implementation parameters of R8, their constraints (R9), and the free values the spec
leaves open (`draw()`, R12). A free value is an opaque constant with no body, applied to a counter or to what
it depends on, so that nothing can be proved of its value (log 7, log 8). -/

namespace Sys2Proof

/-- P_RX_FULL_POLICY (R8, R196): what the engine does when the RX FIFO is full. -/
inductive RxFullPolicy where
  | stall
  | drop
  deriving DecidableEq, Repr, Inhabited

/-- The implementation parameters of R8. P_NUM_DEVICES is the number of device records of the state. -/
structure Params where
  /-- P_BASE, the physical base address of the register bank, counted in words: P_BASE is a multiple of 4 (R81). -/
  baseWord : Nat
  /-- P_FIFO_DEPTH, bytes each FIFO holds. -/
  fifoDepth : Nat
  /-- P_RXR_THRESHOLD, the level at and above which RXR = 1. -/
  rxrThreshold : Nat
  /-- P_TX_LOW_WATER, the chunk bound of the handler's done branch. -/
  txLowWater : Nat
  /-- P_RX_HIGH_WATER, the chunk bound of the handler's receive branch. -/
  rxHighWater : Nat
  /-- P_CFG_CLOCK_DIVISOR, what INITIALIZE writes to CLK.CDIV. -/
  cfgClockDivisor : Half
  /-- P_ERRATA_DLEN, what is written to DLEN.LEN. -/
  errataDlen : Half
  /-- P_IRQ_LINE, the host interrupt line of the block. -/
  irqLine : Nat
  /-- P_CORE_CLOCK_HZ: timing only (R185). -/
  coreClockHz : Nat
  /-- P_RX_FULL_POLICY. -/
  rxFullPolicy : RxFullPolicy
  /-- P_TIMEOUT: none, or the bound k on the polls of one busy-wait (R326). -/
  timeout : Option Nat
  deriving DecidableEq, Repr

/-- R81: P_BASE, a multiple of 4. -/
def Params.base (p : Params) : Nat := 4 * p.baseWord

/-- R9: the constraints a configuration must satisfy; one that breaks any is refused (X5). What becomes of a value
outside R8's range that R9 does not list is open: such a configuration runs (DESIGN CHOICE, log 32). -/
def Params.valid (p : Params) : Bool :=
  decide (1 ≤ p.rxrThreshold) && decide (p.rxrThreshold ≤ p.fifoDepth) &&
  decide (1 ≤ p.txLowWater) && decide (p.txLowWater ≤ p.fifoDepth) &&
  decide (1 ≤ p.rxHighWater) && decide (p.rxHighWater ≤ p.fifoDepth) &&
  decide (p.errataDlen ≠ 0#16) && decide (p.errataDlen ≠ 1#16)

/-- The reference values of 95_test_vectors.md and R8, taken by `State.reset` (DESIGN CHOICE, log 1). -/
def Params.reference : Params where
  baseWord := 0x08081000
  fifoDepth := 64
  rxrThreshold := 48
  txLowWater := 4
  rxHighWater := 4
  cfgClockDivisor := 0x0040#16
  errataDlen := 0x0002#16
  irqLine := 54
  coreClockHz := 250000000
  rxFullPolicy := .stall
  timeout := none

/-- A line of the block whose level may be a free value (R48, R205, R207). -/
inductive Line where
  | csLine (n : Fin 4)
  | mosi
  deriving DecidableEq, Repr

/-- The n-th draw of a run: 32 free bits (R12 `draw()`). -/
opaque Config.freeWord : Nat → Word

/-- The n-th free choice of the agent that moves next (R7). -/
opaque Config.freeChoice : Nat → Nat

/-- R218: how long, in free values and steps used, an ENGINE step enabled since an instant may be passed over before it
is taken (log 7). -/
opaque Config.enginePatience : Nat → Nat

/-- R341: the same for an enabled interrupt entry (log 7). -/
opaque Config.entryPatience : Nat → Nat

/-- The level of a line where R205 or R207 leaves it free, at an instant of the run. -/
opaque Config.freeLevel : Nat → Line → Bool

/-- R185, I4: the divisor that CDIV = 1 stands for, which no source states. -/
opaque Config.effDivisorOne : Nat

/-- R47: sh_tx after reset is a draw. -/
opaque Config.resetShTx : Byte

/-- R47: sh_rx after reset is a draw. -/
opaque Config.resetShRx : Byte

/-- R371: MOSI after reset is a draw. -/
opaque Config.resetMosi : Bool

end Sys2Proof
end

