-- ==== Sys2Proof/Syntax.lean ====
section
/-! DEFINITION. The instruction set of R119: one constructor for each row of spec/opcode_table.json. -/

namespace Sys2Proof

/-- R2, R119: the 12 register-bank transactions and the 5 sequencer operations, with the data word of a
bus write (R111) and the argument record of a sequencer operation (R114). A device index is unsigned, a buffer
is an address or none, and counts are 32-bit two's-complement patterns (R115). -/
inductive Instr where
  | csRead
  | csWrite (wdata : Word)
  | fifoRead
  | fifoWrite (wdata : Word)
  | clkRead
  | clkWrite (wdata : Word)
  | dlenRead
  | dlenWrite (wdata : Word)
  | ltohRead
  | ltohWrite (wdata : Word)
  | dcRead
  | dcWrite (wdata : Word)
  | init
  | select (d : Nat) (chipSelect : Word)
  | transfer (d : Nat) (src dst : Option Nat) (count : Word)
  | pump (d : Nat) (src dst : Option Nat) (txCount rxCount : Word)
  | irqHandler
  deriving DecidableEq, Repr

end Sys2Proof
end

