-- ==== Sys2Proof/WellFormed.lean ====
section
/-! DEFINITION. Which instruction terms an argument record can carry (R114, log 4, log 5). -/

namespace Sys2Proof

/-- A device index fits the record's 32-bit field (log 4). Whether the device exists is checked when the
operation runs (F8, R114). -/
def deviceFits (d : Nat) : Bool := decide (d < 2 ^ 32)

/-- A buffer is none or an address that fits the record's 64-bit field (log 5). -/
def bufferFits : Option Nat → Bool
  | none => true
  | some a => decide (a < 2 ^ 64)

/-- R114: PUMP's counts are signed 32-bit and not negative. -/
def countNonneg (c : Word) : Bool := !c.msb

/-- An instruction that has an encoding. -/
def Instr.wellFormed : Instr → Bool
  | .csRead => true
  | .csWrite _ => true
  | .fifoRead => true
  | .fifoWrite _ => true
  | .clkRead => true
  | .clkWrite _ => true
  | .dlenRead => true
  | .dlenWrite _ => true
  | .ltohRead => true
  | .ltohWrite _ => true
  | .dcRead => true
  | .dcWrite _ => true
  | .init => true
  | .select d _ => deviceFits d
  | .transfer d src dst _ => deviceFits d && bufferFits src && bufferFits dst
  | .pump d src dst txc rxc =>
      deviceFits d && bufferFits src && bufferFits dst && countNonneg txc && countNonneg rxc
  | .irqHandler => true

end Sys2Proof
end

