-- ==== Sys2Proof/Decode.lean ====
section
/-! DEFINITION. The encoding of 30_encoding.md: command words (R111, R113, R119), data phase and argument
records (R111, R114), the decoder with the rejections of R116, and the encoder.

The spec gives no byte layout of a command (R82, R114). The model stores the command word and every 32-bit item
low byte first, and a buffer as a tag byte (0 none, 1 an address) and a 64-bit address (DESIGN CHOICE, log 4). -/

namespace Sys2Proof

/-- Why bytes are no instruction. The first three are the faults F8, F1, F2 of R116, with the command word;
the last two are rejections of the model's own byte layout (log 4). -/
inductive DecodeError where
  | illegalOp (w : Half)
  | busSize (w : Half)
  | busUnmapped (w : Half)
  | truncated
  | badBufferTag (tag : Byte)
  deriving DecidableEq, Repr

/-- A decoded item and the bytes after it, or why there is none. -/
abbrev Decoded (α : Type) := Except DecodeError (α × List Byte)

/-- Read one 16-bit word, low byte first. -/
def take16 : List Byte → Decoded Half
  | b0 :: b1 :: rest => .ok (b1 ++ b0, rest)
  | _ => .error .truncated

/-- Read one 32-bit item, low byte first. -/
def take32 : List Byte → Decoded Word
  | b0 :: b1 :: b2 :: b3 :: rest => .ok (b3 ++ b2 ++ b1 ++ b0, rest)
  | _ => .error .truncated

/-- Read a device index: a 32-bit item, unsigned (R114). -/
def takeDevice (bytes : List Byte) : Decoded Nat :=
  match take32 bytes with
  | .ok (w, rest) => .ok (w.toNat, rest)
  | .error e => .error e

/-- Read a buffer: a tag byte and a 64-bit address. -/
def takeBuffer : List Byte → Decoded (Option Nat)
  | tag :: b0 :: b1 :: b2 :: b3 :: b4 :: b5 :: b6 :: b7 :: rest =>
      if tag = 0#8 then .ok (none, rest)
      else if tag = 1#8 then
        .ok (some (b7 ++ b6 ++ b5 ++ b4 ++ b3 ++ b2 ++ b1 ++ b0 : BitVec 64).toNat, rest)
      else .error (.badBufferTag tag)
  | _ => .error .truncated

/-- The data phase of a BUS write (R111). -/
def decodeWrite (f : Word → Instr) (rest : List Byte) : Decoded Instr :=
  match take32 rest with
  | .ok (w, rest) => .ok (f w, rest)
  | .error e => .error e

/-- SELECT's record: d, chip_select (R114). -/
def decodeSelect (rest : List Byte) : Decoded Instr :=
  match takeDevice rest with
  | .ok (d, rest) => decodeWrite (.select d) rest
  | .error e => .error e

/-- TRANSFER's record: d, in, out, count (R114). -/
def decodeTransfer (rest : List Byte) : Decoded Instr :=
  match takeDevice rest with
  | .error e => .error e
  | .ok (d, rest) =>
    match takeBuffer rest with
    | .error e => .error e
    | .ok (src, rest) =>
      match takeBuffer rest with
      | .error e => .error e
      | .ok (dst, rest) => decodeWrite (.transfer d src dst) rest

/-- PUMP's record: d, in, out, tx_count, rx_count (R114). -/
def decodePump (rest : List Byte) : Decoded Instr :=
  match takeDevice rest with
  | .error e => .error e
  | .ok (d, rest) =>
    match takeBuffer rest with
    | .error e => .error e
    | .ok (src, rest) =>
      match takeBuffer rest with
      | .error e => .error e
      | .ok (dst, rest) =>
        match take32 rest with
        | .error e => .error e
        | .ok (txc, rest) => decodeWrite (.pump d src dst txc) rest

/-- R112: OFFSET and W of a valid BUS word select one of the 12 transactions. -/
def decodeBus (w : Half) (rest : List Byte) : Decoded Instr :=
  let write := w.getLsbD 8
  let offset := w.extractLsb' 0 8
  if offset = 0x00#8 then (if write then decodeWrite .csWrite rest else .ok (.csRead, rest))
  else if offset = 0x04#8 then (if write then decodeWrite .fifoWrite rest else .ok (.fifoRead, rest))
  else if offset = 0x08#8 then (if write then decodeWrite .clkWrite rest else .ok (.clkRead, rest))
  else if offset = 0x0C#8 then (if write then decodeWrite .dlenWrite rest else .ok (.dlenRead, rest))
  else if offset = 0x10#8 then (if write then decodeWrite .ltohWrite rest else .ok (.ltohRead, rest))
  else if offset = 0x14#8 then (if write then decodeWrite .dcWrite rest else .ok (.dcRead, rest))
  else .error (.busUnmapped w)

/-- R113: OP of a valid SEQ word selects one of the 5 operations; the rest are illegal. -/
def decodeSeq (w : Half) (rest : List Byte) : Decoded Instr :=
  let op := w.extractLsb' 0 4
  if op = 0x1#4 then .ok (.init, rest)
  else if op = 0x2#4 then decodeSelect rest
  else if op = 0x3#4 then decodeTransfer rest
  else if op = 0x4#4 then decodePump rest
  else if op = 0x5#4 then .ok (.irqHandler, rest)
  else .error (.illegalOp w)

/-- R110, R111, R113, R116: the command word, checked in R116's order, and the items after it. -/
def decodeCommand (w : Half) (rest : List Byte) : Decoded Instr :=
  if w.getLsbD 15 then
    if w.extractLsb' 4 11 ≠ 0#11 then .error (.illegalOp w) else decodeSeq w rest
  else if w.extractLsb' 11 4 ≠ 0#4 then .error (.illegalOp w)
  else if w.extractLsb' 9 2 ≠ 0b10#2 then .error (.busSize w)
  else decodeBus w rest

/-- The decoder: total on any bytes. It reads one instruction from the front. -/
def decode (bytes : List Byte) : Decoded Instr :=
  match take16 bytes with
  | .ok (w, rest) => decodeCommand w rest
  | .error e => .error e

/-- R119: the command word of each instruction. -/
def Instr.commandWord : Instr → Half
  | .csRead => 0x0400#16
  | .csWrite _ => 0x0500#16
  | .fifoRead => 0x0404#16
  | .fifoWrite _ => 0x0504#16
  | .clkRead => 0x0408#16
  | .clkWrite _ => 0x0508#16
  | .dlenRead => 0x040C#16
  | .dlenWrite _ => 0x050C#16
  | .ltohRead => 0x0410#16
  | .ltohWrite _ => 0x0510#16
  | .dcRead => 0x0414#16
  | .dcWrite _ => 0x0514#16
  | .init => 0x8001#16
  | .select _ _ => 0x8002#16
  | .transfer _ _ _ _ => 0x8003#16
  | .pump _ _ _ _ _ => 0x8004#16
  | .irqHandler => 0x8005#16

/-- A 16-bit word as bytes, low byte first. -/
def bytes16 (w : Half) : List Byte := [w.extractLsb' 0 8, w.extractLsb' 8 8]

/-- A 32-bit item as bytes, low byte first. -/
def bytes32 (w : Word) : List Byte :=
  [w.extractLsb' 0 8, w.extractLsb' 8 8, w.extractLsb' 16 8, w.extractLsb' 24 8]

/-- A 64-bit address as bytes, low byte first. -/
def bytes64 (w : BitVec 64) : List Byte :=
  [w.extractLsb' 0 8, w.extractLsb' 8 8, w.extractLsb' 16 8, w.extractLsb' 24 8,
   w.extractLsb' 32 8, w.extractLsb' 40 8, w.extractLsb' 48 8, w.extractLsb' 56 8]

/-- A buffer as its tag and address (log 4). -/
def bytesBuffer : Option Nat → List Byte
  | none => 0#8 :: bytes64 0#64
  | some a => 1#8 :: bytes64 (BitVec.ofNat 64 a)

/-- The items that follow the command word: the data phase (R111) or the argument record (R114). -/
def Instr.items : Instr → List Byte
  | .csRead => []
  | .csWrite w => bytes32 w
  | .fifoRead => []
  | .fifoWrite w => bytes32 w
  | .clkRead => []
  | .clkWrite w => bytes32 w
  | .dlenRead => []
  | .dlenWrite w => bytes32 w
  | .ltohRead => []
  | .ltohWrite w => bytes32 w
  | .dcRead => []
  | .dcWrite w => bytes32 w
  | .init => []
  | .select d c => bytes32 (BitVec.ofNat 32 d) ++ bytes32 c
  | .transfer d src dst n => bytes32 (BitVec.ofNat 32 d) ++ bytesBuffer src ++ bytesBuffer dst ++ bytes32 n
  | .pump d src dst txc rxc =>
      bytes32 (BitVec.ofNat 32 d) ++ bytesBuffer src ++ bytesBuffer dst ++ bytes32 txc ++ bytes32 rxc
  | .irqHandler => []

/-- The encoder: the bytes of a well-formed instruction. -/
def encode (i : Instr) : List Byte := bytes16 i.commandWord ++ i.items

/-- How many bytes the longest instruction, PUMP, has: 2 + 4 + 9 + 9 + 4 + 4. -/
def longestInstr : Nat := 32

/-- An instruction given by its low `nbits` bits, bit 0 the least significant bit of its first word, as the
bytes the hardware would hold; every bit above is 0, up to the longest instruction. -/
def tableBytes (nbits w : Nat) : List Byte :=
  (List.range longestInstr).map fun i => BitVec.ofNat 8 ((w % 2 ^ nbits) >>> (8 * i))

/-- The instruction the decoder reads from a table word. -/
def decodeTableWord (nbits w : Nat) : Option Instr :=
  match decode (tableBytes nbits w) with
  | .ok (i, _) => some i
  | .error _ => none

end Sys2Proof
end

