-- ==== Sys2Proof/Machine/State.lean ====
section
/-! DEFINITION. The state of 10_state.md, in the four parts of R20 (register bank, engine, sequencer with host
memory, bookkeeping), with the HOST's program (R22, R120) and the environment that answers the free values.
Plain data throughout. -/

namespace Sys2Proof.Machine

/-! ## Names the state is written with -/

/-- The 12 bus transactions, as the event history names them (R60, R119). -/
inductive BusOp where
  | csRead | csWrite | fifoRead | fifoWrite | clkRead | clkWrite
  | dlenRead | dlenWrite | ltohRead | ltohWrite | dcRead | dcWrite
  deriving DecidableEq, Repr

/-- The two completion callbacks of a device (R50). -/
inductive CallbackName where
  | onSendComplete
  | onDataReceived
  deriving DecidableEq, Repr

/-- An entry of the event history (R60). -/
inductive Event where
  | bus (op : BusOp) (offset : Byte) (data : Word)
  | byte (line mode : BitVec 2) (mosi miso : Byte)
  | callback (name : CallbackName) (d : Nat)
  | log (text : String)
  | pins
  | attach (line d : Nat)
  | detach (line : Nat)
  deriving DecidableEq, Repr

/-- The results of R320: E0 to E4, the handler's HANDLED, PUMP's byte count. -/
inductive OpResult where
  | success
  | invalidArgument
  | unsupported
  | irqAttachFailure
  | hardwareTimeout
  | handled
  | count (n : Nat)
  deriving DecidableEq, Repr

/-- The fault codes F1 to F8 (R330). -/
inductive FaultCode where
  | busSize | busUnmapped | fifoInactive | txOverflow | configActive | taMidbyte | unhandledIrq | illegalOp
  deriving DecidableEq, Repr

/-- The HOST's two contexts (R54, R350). -/
inductive Ctx where
  | thread
  | interrupt
  deriving DecidableEq, Repr

/-- The agents that move (R7): the HOST's own steps, the ENGINE's, and interrupt delivery (R341, R344). -/
inductive Agent where
  | host
  | engine
  | delivery
  deriving DecidableEq, Repr, Inhabited

/-- R192: which SLAVE oracle answers. `free` is the hardware's; a test may fix the other two. -/
inductive Slave where
  | free
  | loopback
  | constant (b : Byte)
  deriving DecidableEq, Repr

/-- A callback identity (R50). A `hook` is an external hook with no effect on this state (R56); a callback that
would act on it makes the configuration one the model refuses (X4, R296). -/
inductive Callback where
  | hook (id : Nat)
  | acting (id : Nat)
  deriving DecidableEq, Repr

/-! ## Positions of running operations (R21)

Each constructor is one line of an operation's pseudocode that is still to be taken; its arguments are the
local variables that line reads. -/

/-- INITIALIZE (R230) after its PINS event. -/
inductive InitPos where
  | writeCs | writeClk | writeDlen
  deriving DecidableEq, Repr

/-- SELECT (R240). -/
inductive SelectPos where
  | attach
  | enableRead
  | enableWrite (t : Word)
  | modeRead
  | modeClear (t : Word)
  | modeSetRead
  | modeSet (t : Word)
  | divisor
  | chipRead
  | chipWrite (t : Word)
  deriving DecidableEq, Repr

/-- TRANSFER (R260) after its first CS read. `saved` is the saved host.ie, `r` PUMP's result. -/
inductive TransferPos where
  | logUnsupported
  | armIn | armOut | armRemaining | armDlen
  | armClearRead
  | armClear (t : Word)
  | armTaRead
  | armTa (t : Word)
  | chunkPump
  | chunkRemaining (r : Nat)
  | chunkIn (r : Nat)
  | chunkOut (r : Nat)
  | abandon
  | taRead
  | taSet (t : Word)
  | clearRead
  | clearWrite (t : Word)
  | enterCritical
  | polledPump (saved : Bool)
  | leaveCritical (saved timedOut : Bool)
  | releaseRead
  | release (t : Word)
  deriving DecidableEq, Repr

/-- PUMP (R250) after its DLEN write. `polls` counts the CS reads one busy-wait has made (R326). -/
inductive PumpPos where
  | waitTxd (polls : Nat)
  | push
  | pushFiller
  | waitRxd (polls : Nat)
  | pop
  | store (b : Byte)
  | drainRead
  | drainPop
  | waitDone (polls : Nat)
  deriving DecidableEq, Repr

/-- IRQ_HANDLER (R280) after its first CS read. -/
inductive HandlerPos where
  | chunkA (n : Word)
  | afterA
  | clearTa (t : Word)
  | callbackA
  | chunkB (n : Word) (before : Int)
  | afterB (before : Int)
  | ret
  deriving DecidableEq, Repr

/-- R52: the local state of one PUMP call. -/
structure TransferRequest where
  txCount : Nat
  rxCount : Nat
  tx : Nat
  rx : Nat
  deriving DecidableEq, Repr

/-- One running operation: its operands and its position. -/
inductive Frame where
  | initF (pos : InitPos)
  | selectF (d : Nat) (c : BitVec 2) (pos : SelectPos)
  | transferF (d : Nat) (src dst : Option Nat) (count : Word) (pos : TransferPos)
  | pumpF (d : Nat) (src dst : Option Nat) (q : TransferRequest) (pos : PumpPos)
  | handlerF (d : Nat) (pos : HandlerPos)
  deriving DecidableEq, Repr

/-! ## The host program (R22, R120, R121) -/

/-- A value expression of a host program: host variables and constants with `|`, `&` and `~` (R120). -/
inductive Expr where
  | const (w : Word)
  | var (v : Nat)
  | or (a b : Expr)
  | and (a b : Expr)
  | not (a : Expr)
  deriving DecidableEq, Repr

/-- A condition of `if <cond> goto L`: the two comparisons that R124 and R125 use. R120 does not say which conditions
there are; no order, no signed comparison, no and/or of conditions (DESIGN CHOICE, log 34). -/
inductive Cond where
  | eq (a b : Expr)
  | ne (a b : Expr)
  deriving DecidableEq, Repr

/-- What a host variable holds (R22): a word read from the bus, or an operation's result (program P3). -/
inductive HostVal where
  | word (w : Word)
  | result (r : OpResult)
  deriving DecidableEq, Repr

/-- One line of a host program (R120, R121). `command` is an encoded instruction, its value kept in a variable
if one is named; `call` holds an operation with its argument record as given, whatever its values (R114); `write` is `wr REG, V` with its command word and the expression of its WDATA. Labels are line
numbers. -/
inductive HostLine where
  | command (bytes : List Byte) (dst : Option Nat)
  | call (i : Instr) (dst : Option Nat)
  | write (w : Half) (value : Expr)
  | cli
  | sti
  | goto (line : Nat)
  | ifGoto (c : Cond) (line : Nat)
  deriving DecidableEq, Repr

/-! ## The parts of the state -/

/-- R20.1: the stored fields of the register bank. The FIFO port stores nothing (R41). -/
structure RegisterBank where
  /-- The stored (RW) fields of CS at their bits (R24); every other bit is 0. -/
  cs : Word
  /-- CLK.CDIV (R42). -/
  cdiv : Half
  /-- DLEN.LEN (R43). -/
  dlen : Half
  /-- LTOH.TOH (R44). -/
  toh : BitVec 4
  /-- DC (R44). -/
  dc : Word
  deriving DecidableEq, Repr

/-- R20.2: the FIFOs, the shift register and the driven lines. -/
structure Engine where
  /-- The TX FIFO, oldest byte first (R45). -/
  txq : List Byte
  /-- The RX FIFO, oldest byte first (R46). -/
  rxq : List Byte
  /-- A byte is in flight (R47). -/
  busy : Bool
  shTx : Byte
  shRx : Byte
  /-- SCLK edges already produced for the byte in flight, 0..16 (R47). -/
  edge : Nat
  /-- The level of SCLK while busy (R191, R207). -/
  sclk : Bool
  /-- The level of MOSI while busy (R191, R207). -/
  mosi : Bool
  deriving DecidableEq, Repr

/-- R50: a LogicalDevice. -/
structure LogicalDevice where
  csIndex : BitVec 2
  mode : BitVec 2
  divisor : Half
  irqDone : Bool
  irqRecv : Bool
  src : Option Nat
  dst : Option Nat
  remaining : Int
  onSendComplete : Callback
  onDataReceived : Callback
  deriving DecidableEq, Repr

/-- R20.3: the device records, the IRQ attachment, the host context and interrupt mask, and the positions of
the operations each context is running, innermost first (R21, R341). -/
structure Sequencer where
  devs : List LogicalDevice
  irqAttached : Bool
  irqCtx : Option Nat
  ctx : Ctx
  ie : Bool
  thread : List Frame
  intr : List Frame
  deriving DecidableEq, Repr

/-- R20.4: the fault set, the refused mark and the event history. -/
structure Book where
  faults : List FaultCode
  refused : Bool
  events : List Event
  deriving DecidableEq, Repr

/-- The HOST's program, its position, its variables, the data word of the last bus read, and the result of the
last operation the program issued (R22, R111, R120, R320). -/
structure HostProgram where
  lines : List HostLine
  pc : Nat
  /-- Written variables, by rising number (log 19). -/
  vars : List (Nat × HostVal)
  /-- The variable the running operation's result goes to. -/
  dst : Option Nat
  rdata : Word
  result : Option OpResult
  deriving DecidableEq, Repr

/-- Not the spec's: where free values come from (log 7, log 8, log 9). -/
structure Environment where
  slave : Slave
  /-- Draws already fixed; when none is left, `Config.freeWord` answers. -/
  supply : List Word
  /-- Choices of the next agent already fixed; when none is left, `Config.freeChoice` answers. -/
  sched : List Agent
  /-- How far the free values have been used: every draw past the supply and every step advances it. -/
  fresh : Nat
  /-- `fresh` when the ENGINE last moved or had no step: it has waited since then (R218, log 7). -/
  engineSince : Nat
  /-- `fresh` when an interrupt entry was last taken or not enabled (R341, log 7). -/
  entrySince : Nat
  deriving DecidableEq, Repr

/-- The whole machine. `cfg` is never changed by a step. -/
structure State where
  cfg : Params
  bank : RegisterBank
  eng : Engine
  seq : Sequencer
  mem : List Host.Cell
  host : HostProgram
  book : Book
  env : Environment
  deriving DecidableEq, Repr

/-- Why the machine stops with a fault. The first eight are the faults of R330 with what they record; a run
that ends in one satisfies no claim about its end (R334), so each is safe. -/
inductive Fault where
  /-- F1: any BUS command with SIZE ≠ 0b10 (R84). Raised by issuing the command. Safe. -/
  | busSize (w : Half)
  /-- F2: any BUS command with an OFFSET that is no register (R83). Raised by issuing the command. Safe. -/
  | busUnmapped (w : Half)
  /-- F3: FIFO_READ or FIFO_WRITE with TA = 0 (R150, R154). Safe. -/
  | fifoInactive (w : Half)
  /-- F4: FIFO_WRITE on a full TX FIFO (R150). Safe. -/
  | txOverflow (w : Half) (wdata : Word)
  /-- F5: CS_WRITE that changes a configuration field while TA stays 1 (R143). Safe. -/
  | configActive (oldCs wdata : Word)
  /-- F6: CS_WRITE that clears TA while a byte is in the shift register (R144). Safe. -/
  | taMidbyte (oldCs wdata : Word)
  /-- F7: an enabled interrupt with no handler attached, raised by delivery (R344). Safe. -/
  | unhandledIrq (cs : Word)
  /-- F8: reserved bits, an OP with no operation, or a device index out of range (R114, R116). Safe. -/
  | illegalOp (w : Half)
  /-- R22: a host program reads a variable that holds no word. A fault of the program, not the block. Safe. -/
  | unwrittenVariable (v : Nat)
  /-- R406: no agent can step and the state is not final. Raised by step. Safe. -/
  | stuck
  /-- R330: the run has already ended in the recorded faults; no step follows. Raised by step. Safe. -/
  | runFaulted (codes : List FaultCode)
  deriving DecidableEq, Repr

/-- Why the model has no step. X1 to X6 are the refusals of R333; each is safe. -/
inductive Refusal where
  /-- An instruction whose arm has no meaning yet. Safe. -/
  | notModelled (mnemonic : String)
  /-- X1: a FIFO access or engine step in DMA mode (R150, R154, R181). Safe. -/
  | dmaMode
  /-- X2: the same in LoSSI mode. Safe. -/
  | lossiMode
  /-- X3: the same in bidirectional mode. Safe. -/
  | bidirMode
  /-- X4: a configuration whose callback acts (R296). Raised by step. Safe. -/
  | callbackEffect
  /-- X5: parameters that break R9. Raised by step. Safe. -/
  | paramInvalid
  /-- X6: PUMP not issued by TRANSFER, or IRQ_HANDLER not started by interrupt entry (R114). Safe. -/
  | internalOp
  /-- A command line that ends before its items do, or a buffer tag that is neither 0 nor 1: the model's own
  byte layout (log 4). Raised by fetching. Safe. -/
  | malformedCommand
  /-- R406: the run has reached its final state; there is nothing to run. Raised by step. Safe. -/
  | runComplete
  /-- R333: the run has already been refused; no step follows. Raised by step. Safe. -/
  | runRefused
  deriving DecidableEq, Repr

/-! ## Reset (R370, R371, R381) -/

/-- A device as the owning subsystem might create it: R50 fixes the context, the configuration is a DESIGN
CHOICE (log 2). -/
def LogicalDevice.reset : LogicalDevice where
  csIndex := 0#2
  mode := 0#2
  divisor := 0#16
  irqDone := false
  irqRecv := false
  src := none
  dst := none
  remaining := 0
  onSendComplete := .hook 0
  onDataReceived := .hook 1

/-- The machine right after reset (R371), with the host booted (R381) and no program loaded (log 11). -/
def State.reset : State where
  cfg := Params.reference
  bank :=
    { cs := 0x00001000#32
      cdiv := 0x0000#16
      dlen := 0x0000#16
      toh := 0x1#4
      dc := 0x30203020#32 }
  eng :=
    { txq := []
      rxq := []
      busy := false
      shTx := Config.resetShTx
      shRx := Config.resetShRx
      edge := 0
      sclk := false
      mosi := Config.resetMosi }
  seq :=
    { devs := [LogicalDevice.reset, LogicalDevice.reset]
      irqAttached := false
      irqCtx := none
      ctx := .thread
      ie := true
      thread := []
      intr := [] }
  mem := []
  host :=
    { lines := []
      pc := 0
      vars := []
      dst := none
      rdata := 0#32
      result := none }
  book := { faults := [], refused := false, events := [] }
  env := { slave := .free, supply := [], sched := [], fresh := 0, engineSince := 0, entrySince := 0 }

end Sys2Proof.Machine
end

