-- ==== Sys2Proof/Machine/Fields.lean ====
section
/-! DEFINITION. The field constants of CS (R126), each at the bit R24 gives it, and the groups of fields the
rules speak of: stored fields (R24), configuration fields (R39), reserved bits (R38). -/

namespace Sys2Proof.Machine

def CS_MASK : Word := 0x00000003#32
def CPHA : Word := 0x00000004#32
def CPOL : Word := 0x00000008#32
def CLEAR_TX : Word := 0x00000010#32
def CLEAR_RX : Word := 0x00000020#32
def CSPOL : Word := 0x00000040#32
def TA : Word := 0x00000080#32
def DMAEN : Word := 0x00000100#32
def INTD : Word := 0x00000200#32
def INTR : Word := 0x00000400#32
def ADCS : Word := 0x00000800#32
def REN : Word := 0x00001000#32
def LEN : Word := 0x00002000#32
def LMONO : Word := 0x00004000#32
def TE_EN : Word := 0x00008000#32
def DONE : Word := 0x00010000#32
def RXD : Word := 0x00020000#32
def TXD : Word := 0x00040000#32
def RXR : Word := 0x00080000#32
def RXF : Word := 0x00100000#32
def CSPOL0 : Word := 0x00200000#32
def CSPOL1 : Word := 0x00400000#32
def CSPOL2 : Word := 0x00800000#32
def DMA_LEN : Word := 0x01000000#32
def LEN_LONG : Word := 0x02000000#32

/-- R39: the configuration fields. -/
def csConfig : Word :=
  CS_MASK ||| CPHA ||| CPOL ||| CSPOL ||| DMAEN ||| ADCS ||| REN ||| LEN ||| CSPOL0 ||| CSPOL1 ||| CSPOL2 |||
  DMA_LEN ||| LEN_LONG

/-- R24: the stored (RW) fields; with the configuration fields TA, INTD, INTR, LMONO and TE_EN. -/
def csStored : Word := csConfig ||| TA ||| INTD ||| INTR ||| LMONO ||| TE_EN

/-- R38: the reserved bits of CS, CLK and DLEN, and LTOH. -/
def csReserved : Word := 0xFC000000#32
def halfReserved : Word := 0xFFFF0000#32
def tohReserved : Word := 0xFFFFFFF0#32

/-- R154: the bits of a FIFO read above the popped byte, which are free. -/
def fifoFree : Word := 0xFFFFFF00#32

/-- A field of one bit (or any bit of a mask) is set in a word. -/
def Word.has (w mask : Word) : Bool := w &&& mask != 0#32

end Sys2Proof.Machine
end

