-- ==== Sys2Proof/Machine/Flags.lean ====
section
/-! DEFINITION. The fields of CS read from the state: the stored ones by name, the read-only flags by the
equations of R33 to R37, and the interrupt output (R210). -/

namespace Sys2Proof.Machine

/-! Stored fields (R24). -/

def State.ta (s : State) : Bool := Word.has s.bank.cs TA
def State.cpha (s : State) : Bool := Word.has s.bank.cs CPHA
def State.cpol (s : State) : Bool := Word.has s.bank.cs CPOL
def State.cspol (s : State) : Bool := Word.has s.bank.cs CSPOL
def State.dmaen (s : State) : Bool := Word.has s.bank.cs DMAEN
def State.intd (s : State) : Bool := Word.has s.bank.cs INTD
def State.intr (s : State) : Bool := Word.has s.bank.cs INTR
def State.ren (s : State) : Bool := Word.has s.bank.cs REN
def State.len (s : State) : Bool := Word.has s.bank.cs LEN

/-- R25: CS.CS, the chip-select index. -/
def State.chip (s : State) : BitVec 2 := s.bank.cs.extractLsb' 0 2

/-- R26: the clock mode m = {CPOL, CPHA}. -/
def State.clockMode (s : State) : BitVec 2 := s.bank.cs.extractLsb' 2 2

/-- R28: the per-line polarity CSPOLk of lines 0 to 2. -/
def State.linePolarity (s : State) (k : Nat) : Bool := s.bank.cs.getLsbD (21 + k)

/-! Read-only flags. -/

/-- R33: DONE = TA ∧ |txq| = 0 ∧ ¬busy. -/
def State.done (s : State) : Bool := s.ta && s.eng.txq.isEmpty && !s.eng.busy

/-- R34: RXD = |rxq| > 0. -/
def State.rxd (s : State) : Bool := decide (0 < s.eng.rxq.length)

/-- R35: TXD = |txq| < P_FIFO_DEPTH. -/
def State.txd (s : State) : Bool := decide (s.eng.txq.length < s.cfg.fifoDepth)

/-- R36: RXR = TA ∧ |rxq| ≥ P_RXR_THRESHOLD. -/
def State.rxr (s : State) : Bool := s.ta && decide (s.cfg.rxrThreshold ≤ s.eng.rxq.length)

/-- R37: RXF = |rxq| = P_FIFO_DEPTH. -/
def State.rxf (s : State) : Bool := decide (s.eng.rxq.length = s.cfg.fifoDepth)

/-- A flag at its place. -/
def flagAt (mask : Word) (b : Bool) : Word := if b then mask else 0#32

/-- The five read-only flags at their bits (R24). -/
def State.flags (s : State) : Word :=
  flagAt DONE s.done ||| flagAt RXD s.rxd ||| flagAt TXD s.txd ||| flagAt RXR s.rxr ||| flagAt RXF s.rxf

/-- Bits 25:0 of a CS read (R140): stored fields and flags, the CLEAR bits 0, the reserved bits left out. -/
def State.csWord (s : State) : Word := s.bank.cs ||| s.flags

/-- R210: IRQ = (INTD ∧ DONE) ∨ (INTR ∧ RXR), a level. -/
def State.irq (s : State) : Bool := (s.intd && s.done) || (s.intr && s.rxr)

end Sys2Proof.Machine
end

