-- ==== Sys2Proof/Machine/Operands.lean ====
section
/-! DEFINITION. Operand assembly: offsets and command words (R81, R111, R119), the sequencer's integers (R11,
R115), buffer addresses (R95), and the masks of the read-modify-writes of SELECT (R240). -/

namespace Sys2Proof.Machine

/-- R23: the byte offset of the register each transaction reaches. -/
def BusOp.offset : BusOp → Byte
  | .csRead => 0x00#8
  | .csWrite => 0x00#8
  | .fifoRead => 0x04#8
  | .fifoWrite => 0x04#8
  | .clkRead => 0x08#8
  | .clkWrite => 0x08#8
  | .dlenRead => 0x0C#8
  | .dlenWrite => 0x0C#8
  | .ltohRead => 0x10#8
  | .ltohWrite => 0x10#8
  | .dcRead => 0x14#8
  | .dcWrite => 0x14#8

/-- W of a transaction's command word (R111). -/
def BusOp.isWrite : BusOp → Bool
  | .csRead => false
  | .csWrite => true
  | .fifoRead => false
  | .fifoWrite => true
  | .clkRead => false
  | .clkWrite => true
  | .dlenRead => false
  | .dlenWrite => true
  | .ltohRead => false
  | .ltohWrite => true
  | .dcRead => false
  | .dcWrite => true

/-- R119: a BUS command word is `0x0400 | (W << 8) | OFFSET`. -/
def BusOp.commandWord (op : BusOp) : Half :=
  0x0400#16 ||| (if op.isWrite then 0x0100#16 else 0#16) ||| op.offset.setWidth 16

/-- R81: the OFFSET of an address that reaches the block, none for one that does not. -/
def busOffset (p : Params) (addr : Nat) : Option Byte :=
  if p.base ≤ addr ∧ addr < p.base + 0x18 then some (BitVec.ofNat 8 (addr - p.base)) else none

/-- zext_32 of a 16-bit value (R10). -/
def zextHalf (h : Half) : Word := h.setWidth 32

/-- zext_32 of a byte (R10). -/
def zextByte (b : Byte) : Word := b.setWidth 32

/-- The value of a 32-bit two's-complement operand (R115). -/
def signed (w : Word) : Int := w.toInt

/-- R11: the range of the sequencer's integers. -/
def inInt32 (x : Int) : Bool := decide (-2147483648 ≤ x) && decide (x ≤ 2147483647)

/-- The 32-bit pattern of an integer operand (R115). -/
def pattern (x : Int) : Word := BitVec.ofInt 32 x

/-- R262: the count that has no magnitude. -/
def countMin : Word := 0x80000000#32

/-- R241: chip_select ∈ {0, 1, 2, 3}. -/
def chipSelectValid (c : Word) : Bool := decide (c.toNat < 4)

/-- c[1:0] of a valid chip select (R245). -/
def chipIndex (c : Word) : BitVec 2 := c.extractLsb' 0 2

/-- R95: the address of byte i of a buffer. -/
def bufferAddr (base i : Nat) : Nat := base + i

/-- R266: a cursor that is not none advances by r. -/
def advanceCursor (b : Option Nat) (r : Nat) : Option Nat := b.map (· + r)

/-- R242: CPHA ← mode[0], CPOL ← mode[1], as the bits OR-ed in. -/
def modeBits (m : BitVec 2) : Word :=
  (if m.getLsbD 0 then CPHA else 0#32) ||| (if m.getLsbD 1 then CPOL else 0#32)

/-- R243: the enable bits a device's requests OR in. -/
def enableBits (d : LogicalDevice) : Word :=
  (if d.irqDone then INTD else 0#32) ||| (if d.irqRecv then INTR else 0#32)

/-- The device requests an interrupt source (R243, R264). -/
def LogicalDevice.wantsIrq (d : LogicalDevice) : Bool := d.irqDone || d.irqRecv

/-- R240: the CS value SELECT writes for the enables: `t | (irq_done ? INTD : 0) | (irq_recv ? INTR : 0)`. -/
def withEnables (t : Word) (d : LogicalDevice) : Word := t ||| enableBits d

/-- R240: `t & ~(CPHA | CPOL)`. -/
def withoutMode (t : Word) : Word := t &&& ~~~(CPHA ||| CPOL)

/-- R240: `t | (mode[0] ? CPHA : 0) | (mode[1] ? CPOL : 0)`. -/
def withMode (t : Word) (m : BitVec 2) : Word := t ||| modeBits m

/-- R240: `(t & ~CS_MASK) | c`. -/
def withChip (t : Word) (c : BitVec 2) : Word := (t &&& ~~~CS_MASK) ||| c.setWidth 32

/-- R260: `t | TA`. -/
def withTa (t : Word) : Word := t ||| TA

/-- R260, R280: `t & ~TA`. -/
def withoutTa (t : Word) : Word := t &&& ~~~TA

/-- R260: `t | CLEAR_TX | CLEAR_RX`. -/
def withClears (t : Word) : Word := t ||| CLEAR_TX ||| CLEAR_RX

/-- R231: the quiescent CS value INITIALIZE writes. -/
def quiescentCs : Word := 0x00000030#32

end Sys2Proof.Machine
end

