-- ==== Sys2Proof/Machine/Ops.lean ====
section
/-! DEFINITION. The shared operations: the event history, draws, host memory, the positions of running
operations, device records, host variables, the register transactions of 40_register_access.md, and interrupt
entry and return (R341). Every meaning is written over these. -/

namespace Sys2Proof.Machine

/-- What a step, a meaning or a shared operation that can stop answers. -/
abbrev StepResult := Host.Outcome State Fault Refusal

/-- Go on with the next state, or stop as the first part did. -/
def andThen (o : StepResult) (f : State → StepResult) : StepResult :=
  match o with
  | .next s => f s
  | .fault r => .fault r
  | .refused r => .refused r

/-! ## Event history and draws -/

/-- `event(..)` of R12: append to the history (R60). -/
def State.log (s : State) (e : Event) : State := { s with book.events := s.book.events ++ [e] }

/-- `draw()` of R12: the value of the next draw (log 8). -/
def State.drawValue (s : State) : Word := s.env.supply.head?.getD (Config.freeWord s.env.fresh)

/-- The state after one draw (log 8). -/
def State.drawn (s : State) : State :=
  { s with
    env.supply := s.env.supply.tail
    env.fresh := s.env.fresh + (if s.env.supply.isEmpty then 1 else 0) }

/-! ## Host memory (R55, R95) -/

/-- What an address that nothing has written reads as (DESIGN CHOICE, log 6). -/
def Memory.unwritten : Byte := 0x00#8

/-- `MemRead(a, 1)`. -/
def Memory.read : List Host.Cell → Nat → Byte
  | [], _ => Memory.unwritten
  | (k, v) :: m, a => if k = a then v else Memory.read m a

/-- Put a cell before cells of higher addresses; a cell that reads as unwritten is not listed. -/
def Memory.cons (a : Nat) (v : Byte) (m : List Host.Cell) : List Host.Cell :=
  if v = Memory.unwritten then m else (a, v) :: m

/-- `MemWrite(a, 1, v)`, keeping the canonical form. -/
def Memory.write : List Host.Cell → Nat → Byte → List Host.Cell
  | [], a, v => Memory.cons a v []
  | (k, x) :: m, a, v =>
      if a < k then Memory.cons a v ((k, x) :: m)
      else if a = k then Memory.cons a v m
      else (k, x) :: Memory.write m a v

/-- The canonical form, all addresses at or above `lo`. -/
def Memory.wfFrom : Nat → List Host.Cell → Bool
  | _, [] => true
  | lo, (k, v) :: m => decide (lo ≤ k) && v != Memory.unwritten && Memory.wfFrom (k + 1) m

/-- The canonical form: addresses strictly rising, no entry that reads as unwritten. -/
def Memory.wf (m : List Host.Cell) : Bool := Memory.wfFrom 0 m

/-- Read one byte of host memory. -/
def State.memByte (s : State) (a : Nat) : Byte := Memory.read s.mem a

/-- Write one byte of host memory. -/
def State.memStore (s : State) (a : Nat) (v : Byte) : State := { s with mem := Memory.write s.mem a v }

/-! ## Device records (R50) -/

/-- dev[d], none when d is not below P_NUM_DEVICES. -/
def State.dev? (s : State) (d : Nat) : Option LogicalDevice := s.seq.devs[d]?

/-- Change dev[d]. -/
def State.updateDev (s : State) (d : Nat) (f : LogicalDevice → LogicalDevice) : State :=
  { s with seq.devs := s.seq.devs.modify d f }

/-- R265: `D.in <- in`. -/
def LogicalDevice.setSrc (D : LogicalDevice) (b : Option Nat) : LogicalDevice := { D with src := b }

/-- R265: `D.out <- out`. -/
def LogicalDevice.setDst (D : LogicalDevice) (b : Option Nat) : LogicalDevice := { D with dst := b }

/-- R265, R266: an assignment to D.remaining, not performed where the value leaves the 32-bit range (R11,
log 15). -/
def LogicalDevice.setRemaining (D : LogicalDevice) (n : Int) : LogicalDevice :=
  if inInt32 n then { D with remaining := n } else D

/-- R266: `D.remaining <- D.remaining - r`. -/
def LogicalDevice.subtract (D : LogicalDevice) (r : Nat) : LogicalDevice := D.setRemaining (D.remaining - r)

/-- R266: a cursor that is not none advances by r. -/
def LogicalDevice.advanceSrc (D : LogicalDevice) (r : Nat) : LogicalDevice := { D with src := advanceCursor D.src r }
def LogicalDevice.advanceDst (D : LogicalDevice) (r : Nat) : LogicalDevice := { D with dst := advanceCursor D.dst r }

/-! ## Positions of running operations (R21) -/

/-- The operations the current context is running, innermost first. -/
def State.stack (s : State) : List Frame :=
  match s.seq.ctx with
  | .thread => s.seq.thread
  | .interrupt => s.seq.intr

/-- Replace the current context's operations. -/
def State.setStack (s : State) (l : List Frame) : State :=
  { s with
    seq.thread := (match s.seq.ctx with | .thread => l | .interrupt => s.seq.thread)
    seq.intr := (match s.seq.ctx with | .thread => s.seq.intr | .interrupt => l) }

/-- An operation begins: its position is innermost. -/
def State.push (s : State) (f : Frame) : State := s.setStack (f :: s.stack)

/-- The innermost operation moves to another position. -/
def State.moveTo (s : State) (f : Frame) : State := s.setStack (f :: s.stack.tail)

/-- The innermost operation ends. -/
def State.pop (s : State) : State := s.setStack s.stack.tail

/-- How an operation that waits for the one it called goes on with that one's result: TRANSFER with PUMP's
count or its timeout (R266, R267, R326), IRQ_HANDLER after TRANSFER, whose result it ignores (R289). A position
that waits for nothing is left as it is. -/
def Frame.resume (r : OpResult) : Frame → Frame
  | .transferF d src dst n .chunkPump =>
      match r with
      | .count k => .transferF d src dst n (.chunkRemaining k)
      | _ => .transferF d src dst n .abandon
  | .transferF d src dst n (.polledPump saved) =>
      match r with
      | .count _ => .transferF d src dst n (.leaveCritical saved false)
      | _ => .transferF d src dst n (.leaveCritical saved true)
  | .handlerF d (.chunkA _) => .handlerF d .afterA
  | .handlerF d (.chunkB _ before) => .handlerF d (.afterB before)
  | f => f

/-! ## Host variables (R22) -/

/-- The value of a host variable, none while it is unwritten. -/
def lookupVar : List (Nat × HostVal) → Nat → Option HostVal
  | [], _ => none
  | (k, x) :: l, v => if k = v then some x else lookupVar l v

/-- Write a host variable, keeping the list by rising number. -/
def writeVar : List (Nat × HostVal) → Nat → HostVal → List (Nat × HostVal)
  | [], v, x => [(v, x)]
  | (k, y) :: l, v, x =>
      if v < k then (v, x) :: (k, y) :: l
      else if v = k then (v, x) :: l
      else (k, y) :: writeVar l v x

/-- Keep a value in a variable, if the line names one. -/
def keepIn (vars : List (Nat × HostVal)) (dst : Option Nat) (x : HostVal) : List (Nat × HostVal) :=
  match dst with
  | none => vars
  | some v => writeVar vars v x

/-! ## Interrupt entry and return (R341)

Entry saves the thread context's position by leaving its stack where it is; IRQ_HANDLER runs on the other one. -/

/-- R341: entry sets host.ctx ← interrupt and host.ie ← 0. IRQ_HANDLER, with d = irq_ctx, is the HOST's next
step. -/
def State.enterInterrupt (s : State) : State :=
  { s with seq.ctx := .interrupt, seq.ie := false, seq.intr := [] }

/-- R341: return sets host.ctx ← thread and host.ie ← 1; the thread's position is where it stopped. -/
def State.returnFromInterrupt (s : State) : State :=
  { s with seq.ctx := .thread, seq.ie := true, seq.intr := [] }

/-! ## Ends of operations (R320) -/

/-- The operation a program line issued ends: its result is kept (R320, R120). -/
def State.endCommand (s : State) (r : OpResult) : State :=
  { s with
    host.result := some r
    host.vars := keepIn s.host.vars s.host.dst (.result r)
    host.dst := none }

/-- Give a result to whoever waits for it in the current context: the operation that called, else the program
(thread) or the return from interrupt (R341). -/
def State.deliver (s : State) (r : OpResult) : State :=
  match s.seq.ctx, s.stack with
  | _, f :: rest => s.setStack (f.resume r :: rest)
  | .thread, [] => s.endCommand r
  | .interrupt, [] => s.returnFromInterrupt

/-- `return r` of R12: the innermost operation ends with a result. -/
def State.finish (s : State) (r : OpResult) : State := s.pop.deliver r

/-! ## Recording a fault or a refusal (R57, R58, R330, R333) -/

/-- The code F1 to F8 of a fault; none for the model's own stops. -/
def Fault.code : Fault → Option FaultCode
  | .busSize _ => some .busSize
  | .busUnmapped _ => some .busUnmapped
  | .fifoInactive _ => some .fifoInactive
  | .txOverflow _ _ => some .txOverflow
  | .configActive _ _ => some .configActive
  | .taMidbyte _ _ => some .taMidbyte
  | .unhandledIrq _ => some .unhandledIrq
  | .illegalOp _ => some .illegalOp
  | .unwrittenVariable _ => none
  | .stuck => none
  | .runFaulted _ => none

/-- R330: `raise Fault(Fn)` adds Fn to `faults`, a set, and has no other effect. -/
def State.raise (s : State) (f : Fault) : State :=
  match f.code with
  | some c => if c ∈ s.book.faults then s else { s with book.faults := s.book.faults ++ [c] }
  | none => s

/-- R333: `refuse(Xn)` sets `refused`. -/
def State.refuse (s : State) : State := { s with book.refused := true }

/-! ## Register transactions (40_register_access.md)

A read leaves RDATA in `host.rdata`; every transaction appends its BUS event last (R140, head of the file). -/

/-- The end of a read: RDATA and its event. -/
def State.readDone (s : State) (op : BusOp) (rdata : Word) : State :=
  { s with host.rdata := rdata, book.events := s.book.events ++ [.bus op op.offset rdata] }

/-- The end of a write: its event. -/
def State.writeDone (s : State) (op : BusOp) (wdata : Word) : State := s.log (.bus op op.offset wdata)

/-- R140: the value of a CS read: stored fields, flags, and a fresh draw in bits 31:26 (R38). -/
def State.csRdata (s : State) : Word := s.csWord ||| (s.drawValue &&& csReserved)

/-- R140: CS_READ. -/
def State.readCs (s : State) : State := s.drawn.readDone .csRead s.csRdata

/-- R141, R142: the FIFO after a clear bit of a CS write. -/
def clearedBy (wdata clear : Word) (q : List Byte) : List Byte := if Word.has wdata clear then [] else q

/-- R141 to R145: CS_WRITE. -/
def State.writeCs (s : State) (wdata : Word) : StepResult :=
  if s.ta && Word.has wdata TA && (wdata &&& csConfig != s.bank.cs &&& csConfig) then
    .fault (.configActive s.bank.cs wdata)
  else if s.ta && !Word.has wdata TA && s.eng.busy then .fault (.taMidbyte s.bank.cs wdata)
  else
    .next
      (({ s with
          bank.cs := wdata &&& csStored
          eng.txq := clearedBy wdata CLEAR_TX s.eng.txq
          eng.rxq := clearedBy wdata CLEAR_RX s.eng.rxq } : State).writeDone .csWrite wdata)

/-- R150: FIFO_WRITE, with its checks in the order X1, F3, X2, X3, F4. -/
def State.writeFifo (s : State) (wdata : Word) : StepResult :=
  if s.dmaen then .refused .dmaMode
  else if !s.ta then .fault (.fifoInactive BusOp.fifoWrite.commandWord)
  else if s.len then .refused .lossiMode
  else if s.ren then .refused .bidirMode
  else if s.eng.txq.length = s.cfg.fifoDepth then .fault (.txOverflow BusOp.fifoWrite.commandWord wdata)
  else .next (({ s with eng.txq := s.eng.txq ++ [wdata.extractLsb' 0 8] } : State).writeDone .fifoWrite wdata)

/-- R154: RDATA of a FIFO read: the oldest byte under 24 free bits, 32 free bits when there is none. -/
def State.fifoRdata (s : State) : Word :=
  match s.eng.rxq with
  | [] => s.drawValue
  | b :: _ => zextByte b ||| (s.drawValue &&& fifoFree)

/-- R154: FIFO_READ, with its checks in the order X1, F3, X2, X3. -/
def State.readFifo (s : State) : StepResult :=
  if s.dmaen then .refused .dmaMode
  else if !s.ta then .fault (.fifoInactive BusOp.fifoRead.commandWord)
  else if s.len then .refused .lossiMode
  else if s.ren then .refused .bidirMode
  else .next (({ s.drawn with eng.rxq := s.eng.rxq.tail } : State).readDone .fifoRead s.fifoRdata)

/-- R160: CLK_READ. -/
def State.readClk (s : State) : State :=
  s.drawn.readDone .clkRead (zextHalf s.bank.cdiv ||| (s.drawValue &&& halfReserved))

/-- R161: CLK_WRITE. -/
def State.writeClk (s : State) (wdata : Word) : State :=
  ({ s with bank.cdiv := wdata.extractLsb' 0 16 } : State).writeDone .clkWrite wdata

/-- R162: DLEN_READ. -/
def State.readDlen (s : State) : State :=
  s.drawn.readDone .dlenRead (zextHalf s.bank.dlen ||| (s.drawValue &&& halfReserved))

/-- R163: DLEN_WRITE. -/
def State.writeDlen (s : State) (wdata : Word) : State :=
  ({ s with bank.dlen := wdata.extractLsb' 0 16 } : State).writeDone .dlenWrite wdata

/-- R164: LTOH_READ. -/
def State.readLtoh (s : State) : State :=
  s.drawn.readDone .ltohRead (s.bank.toh.setWidth 32 ||| (s.drawValue &&& tohReserved))

/-- R165: LTOH_WRITE. -/
def State.writeLtoh (s : State) (wdata : Word) : State :=
  ({ s with bank.toh := wdata.extractLsb' 0 4 } : State).writeDone .ltohWrite wdata

/-- R166: DC_READ: all 32 bits are stored. -/
def State.readDc (s : State) : State := s.readDone .dcRead s.bank.dc

/-- R167: DC_WRITE. -/
def State.writeDc (s : State) (wdata : Word) : State :=
  ({ s with bank.dc := wdata } : State).writeDone .dcWrite wdata

end Sys2Proof.Machine
end

