-- ==== Sys2Proof/Machine/Bus.lean ====
section
/-! DEFINITION. Family BUS: the 12 register transactions of 40_register_access.md, one step each (R85, R168). -/

namespace Sys2Proof.Machine

/-- CS_READ (R140). -/
def execCsRead (s : State) : StepResult := .next s.readCs

/-- CS_WRITE (R141). -/
def execCsWrite (wdata : Word) (s : State) : StepResult := s.writeCs wdata

/-- FIFO_READ (R154). -/
def execFifoRead (s : State) : StepResult := s.readFifo

/-- FIFO_WRITE (R150). -/
def execFifoWrite (wdata : Word) (s : State) : StepResult := s.writeFifo wdata

/-- CLK_READ (R160). -/
def execClkRead (s : State) : StepResult := .next s.readClk

/-- CLK_WRITE (R161). -/
def execClkWrite (wdata : Word) (s : State) : StepResult := .next (s.writeClk wdata)

/-- DLEN_READ (R162). -/
def execDlenRead (s : State) : StepResult := .next s.readDlen

/-- DLEN_WRITE (R163). -/
def execDlenWrite (wdata : Word) (s : State) : StepResult := .next (s.writeDlen wdata)

/-- LTOH_READ (R164). -/
def execLtohRead (s : State) : StepResult := .next s.readLtoh

/-- LTOH_WRITE (R165). -/
def execLtohWrite (wdata : Word) (s : State) : StepResult := .next (s.writeLtoh wdata)

/-- DC_READ (R166). -/
def execDcRead (s : State) : StepResult := .next s.readDc

/-- DC_WRITE (R167). -/
def execDcWrite (wdata : Word) (s : State) : StepResult := .next (s.writeDc wdata)

end Sys2Proof.Machine
end

