-- ==== Sys2Proof/Machine/Pump.lean ====
section
/-! DEFINITION. PUMP (R250 to R258), the polled byte-pump, with the optional timeout of R326. -/

namespace Sys2Proof.Machine

/-- The command word an illegal device index of PUMP records (R330). -/
def pumpWord : Half := 0x8004#16

/-- R250 step 2, R251: where the loop test leads. The TX step comes first while TX bytes are pending, the RX
step otherwise; a loop that ends goes on to the drain. -/
def pumpHead (src dst : Option Nat) (q : TransferRequest) : PumpPos :=
  if (q.tx < q.txCount ∧ src.isSome) ∨ (q.rx < q.rxCount ∧ dst.isSome) then
    if q.tx < q.txCount then (if src.isSome then .waitTxd 0 else .pushFiller) else .waitRxd 0
  else .drainRead

/-- R250 step 2: after the TX step of an iteration, its RX step or the next loop test. -/
def pumpAfterTx (src dst : Option Nat) (q : TransferRequest) : PumpPos :=
  if q.rx < q.rxCount ∧ dst.isSome then .waitRxd 0 else pumpHead src dst q

/-- R250: a request as PUMP begins. -/
def TransferRequest.begin (txCount rxCount : Word) : TransferRequest where
  txCount := txCount.toNat
  rxCount := rxCount.toNat
  tx := 0
  rx := 0

/-- R114: PUMP is issued by TRANSFER only. TRANSFER stands innermost at its call, with these operands. -/
def State.calledByTransfer (s : State) (d : Nat) (src dst : Option Nat) (txCount rxCount : Word) : Bool :=
  match s.stack with
  | .transferF d' src' dst' n .chunkPump :: _ =>
      d = d' && src = src' && dst = dst' && txCount = n && rxCount = n
  | .transferF d' src' dst' n (.polledPump _) :: _ =>
      d = d' && src = src' && dst = dst' && txCount = n && rxCount = n
  | _ => false

/-- PUMP's first step: `reg[DLEN] <- zext_32(P_ERRATA_DLEN)` (R250 step 1, R391). Refused (X6) unless TRANSFER
issues it. -/
def execPump (d : Nat) (src dst : Option Nat) (txCount rxCount : Word) (s : State) : StepResult :=
  if (s.dev? d).isNone then .fault (.illegalOp pumpWord)
  else if !s.calledByTransfer d src dst txCount rxCount then .refused .internalOp
  else
    let q := TransferRequest.begin txCount rxCount
    .next ((s.writeDlen (zextHalf s.cfg.errataDlen)).push (.pumpF d src dst q (pumpHead src dst q)))

/-- R102, R124, R326: one poll of a busy-wait. The CS read is made; when it satisfies the wait the operation
goes on as `met` says; when P_TIMEOUT polls have been made PUMP returns HardwareTimeout; else it polls again. -/
def State.poll (s : State) (flag : Word) (polls : Nat) (met : State → State) (again : Frame) : State :=
  if Word.has s.csRdata flag then met s.readCs
  else
    match s.cfg.timeout with
    | none => s.readCs.moveTo again
    | some k => if k ≤ polls + 1 then s.readCs.finish .hardwareTimeout else s.readCs.moveTo again

/-- A request after one more byte sent or received. -/
def TransferRequest.sent (q : TransferRequest) : TransferRequest := { q with tx := q.tx + 1 }
def TransferRequest.received (q : TransferRequest) : TransferRequest := { q with rx := q.rx + 1 }

/-- R250: the rest of PUMP, one transaction or memory write a step. -/
def pumpAdvance (d : Nat) (src dst : Option Nat) (q : TransferRequest) (pos : PumpPos) (s : State) :
    StepResult :=
  match pos with
  | .waitTxd polls =>
      .next (s.poll TXD polls (·.moveTo (.pumpF d src dst q .push)) (.pumpF d src dst q (.waitTxd (polls + 1))))
  | .push =>
      andThen (s.writeFifo (zextByte (s.memByte (bufferAddr (src.getD 0) q.tx)))) fun s =>
        .next (s.moveTo (.pumpF d src dst q.sent (pumpAfterTx src dst q.sent)))
  | .pushFiller =>
      andThen (s.writeFifo 0x00000000#32) fun s =>
        .next (s.moveTo (.pumpF d src dst q.sent (pumpAfterTx src dst q.sent)))
  | .waitRxd polls =>
      .next (s.poll RXD polls (·.moveTo (.pumpF d src dst q .pop)) (.pumpF d src dst q (.waitRxd (polls + 1))))
  | .pop =>
      andThen s.readFifo fun s => .next (s.moveTo (.pumpF d src dst q (.store (s.host.rdata.extractLsb' 0 8))))
  | .store b =>
      .next ((s.memStore (bufferAddr (dst.getD 0) q.rx) b).moveTo
        (.pumpF d src dst q.received (pumpHead src dst q.received)))
  | .drainRead =>
      .next (s.readCs.moveTo (.pumpF d src dst q (if Word.has s.csRdata RXD then .drainPop else .waitDone 0)))
  | .drainPop => andThen s.readFifo fun s => .next (s.moveTo (.pumpF d src dst q .drainRead))
  | .waitDone polls =>
      .next (s.poll DONE polls (·.finish (.count (max q.tx q.rx))) (.pumpF d src dst q (.waitDone (polls + 1))))

end Sys2Proof.Machine
end

