-- ==== Sys2Proof/Machine/Transfer.lean ====
section
/-! DEFINITION. TRANSFER (R260 to R270): rejected, armed, re-entrant and plain polled. -/

namespace Sys2Proof.Machine

/-- The command word an illegal device index of TRANSFER records (R330). -/
def transferWord : Half := 0x8003#16

/-- R260, R264: what TRANSFER does after its CS read t: a position to go on at, or InvalidArgument at once
(count = −2^31, R262). The order is DMAEN, −2^31, arm, re-entrant, plain polled. -/
def transferDecide (t : Word) (count : Word) (D : LogicalDevice) : Option TransferPos :=
  if Word.has t DMAEN then some .logUnsupported
  else if count = countMin then none
  else if signed count < 0 then some .armIn
  else if D.wantsIrq then some .chunkPump
  else some .taRead

/-- TRANSFER's first step: `t <- reg[CS]`, and the decision of R264 on it. -/
def execTransfer (d : Nat) (src dst : Option Nat) (count : Word) (s : State) : StepResult :=
  match s.dev? d with
  | none => .fault (.illegalOp transferWord)
  | some D =>
    match transferDecide s.csRdata count D with
    | none => .next (s.readCs.deliver .invalidArgument)
    | some pos => .next (s.readCs.push (.transferF d src dst count pos))

/-- R260: the rest of TRANSFER, one transaction or host-side update a step. -/
def transferAdvance (d : Nat) (src dst : Option Nat) (count : Word) (pos : TransferPos) (s : State) :
    StepResult :=
  let goto := fun (p : TransferPos) (s : State) => s.moveTo (.transferF d src dst count p)
  match pos with
  -- R261
  | .logUnsupported => .next ((s.log (.log "DMA unsupported")).finish .unsupported)
  -- R265: arm
  | .armIn => .next (goto .armOut (s.updateDev d (·.setSrc src)))
  | .armOut => .next (goto .armRemaining (s.updateDev d (·.setDst dst)))
  | .armRemaining => .next (goto .armDlen (s.updateDev d (·.setRemaining (-(signed count)))))
  | .armDlen => .next (goto .armClearRead (s.writeDlen (zextHalf s.cfg.errataDlen)))
  | .armClearRead => .next (goto (.armClear s.csRdata) s.readCs)
  | .armClear t => andThen (s.writeCs (withClears t)) fun s => .next (goto .armTaRead s)
  | .armTaRead => .next (goto (.armTa s.csRdata) s.readCs)
  | .armTa t => andThen (s.writeCs (withTa t)) fun s => .next (s.finish .success)
  -- R266: re-entrant
  | .chunkPump => execPump d src dst count count s
  | .chunkRemaining r => .next (goto (.chunkIn r) (s.updateDev d (·.subtract r)))
  | .chunkIn r => .next (goto (.chunkOut r) (s.updateDev d (·.advanceSrc r)))
  | .chunkOut r => .next ((s.updateDev d (·.advanceDst r)).finish .success)
  | .abandon => .next (s.finish .hardwareTimeout)
  -- R267: plain polled
  | .taRead => .next (goto (.taSet s.csRdata) s.readCs)
  | .taSet t => andThen (s.writeCs (withTa t)) fun s => .next (goto .clearRead s)
  | .clearRead => .next (goto (.clearWrite s.csRdata) s.readCs)
  | .clearWrite t => andThen (s.writeCs (withClears t)) fun s => .next (goto .enterCritical s)
  | .enterCritical => .next (goto (.polledPump s.seq.ie) { s with seq.ie := false })
  | .polledPump _ => execPump d src dst count count s
  | .leaveCritical saved timedOut =>
      if timedOut then .next (({ s with seq.ie := saved } : State).finish .hardwareTimeout)
      else .next (goto .releaseRead { s with seq.ie := saved })
  | .releaseRead => .next (goto (.release s.csRdata) s.readCs)
  | .release t => andThen (s.writeCs (withoutTa t)) fun s => .next (s.finish .success)

end Sys2Proof.Machine
end

