-- ==== Sys2Proof/Machine/Handler.lean ====
section
/-! DEFINITION. IRQ_HANDLER (R280 to R299), the interrupt handler and the transfer state machine it drives. -/

namespace Sys2Proof.Machine

/-- The command word an illegal device index of IRQ_HANDLER records (R330). -/
def handlerWord : Half := 0x8005#16

/-- R282, R284: the chunk size, `min(D.remaining, bound)`, as TRANSFER's count operand. -/
def chunkCount (D : LogicalDevice) (bound : Nat) : Word := pattern (min D.remaining bound)

/-- R280, R286: the branch the CS value read at entry selects. -/
def handlerDecide (t : Word) (p : Params) (D : LogicalDevice) : HandlerPos :=
  if Word.has t DONE && Word.has t TA && decide (0 < D.remaining) then .chunkA (chunkCount D p.txLowWater)
  else if Word.has t RXR then .chunkB (chunkCount D p.rxHighWater) D.remaining
  else .ret

/-- IRQ_HANDLER's first step: `t <- reg[CS]` and the choice of branch on it. Its device is irq_ctx. Only an
interrupt entry starts it (R341): the HOST is in interrupt context with nothing running there yet. Anything else
is X6 (R114). -/
def execIrqHandler (s : State) : StepResult :=
  match s.seq.ctx, s.seq.intr, s.seq.irqCtx with
  | .interrupt, [], some d =>
    match s.dev? d with
    | none => .fault (.illegalOp handlerWord)
    | some D => .next (s.readCs.push (.handlerF d (handlerDecide s.csRdata s.cfg D)))
  | _, _, _ => .refused .internalOp

/-- R280: the rest of IRQ_HANDLER, one transaction, event or call a step. Where `before - D.remaining` would leave the
32-bit range (a negative count that branch B armed), R11 performs no such operation and does not say what the test then
finds: the model tests the exact difference (DESIGN CHOICE, log 15). -/
def handlerAdvance (d : Nat) (pos : HandlerPos) (s : State) : StepResult :=
  match s.dev? d with
  | none => .fault (.illegalOp handlerWord)
  | some D =>
    match pos with
    | .chunkA n => execTransfer d D.src D.dst n s
    | .afterA =>
        if D.remaining = 0 then .next (s.readCs.moveTo (.handlerF d (.clearTa s.csRdata)))
        else .next (s.finish .handled)
    | .clearTa t => andThen (s.writeCs (withoutTa t)) fun s => .next (s.moveTo (.handlerF d .callbackA))
    | .callbackA => .next ((s.log (.callback .onSendComplete d)).moveTo (.handlerF d .ret))
    | .chunkB n _ => execTransfer d D.src D.dst n s
    | .afterB before =>
        if D.dst.isSome && decide (0 < before - D.remaining) then
          .next ((s.log (.callback .onSendComplete d)).moveTo (.handlerF d .ret))
        else .next (s.finish .handled)
    | .ret => .next (s.finish .handled)

end Sys2Proof.Machine
end

