-- ==== Sys2Proof/Machine/Initialize.lean ====
section
/-! DEFINITION. INITIALIZE (R230 to R232): the pins, then CS, CLK and DLEN, each its own step. -/

namespace Sys2Proof.Machine

/-- INITIALIZE's first step: `event(PINS)`. It returns through `initAdvance`. -/
def execInit (s : State) : StepResult := .next ((s.log .pins).push (.initF .writeCs))

/-- R230: the three register writes, in order, and the return. -/
def initAdvance (pos : InitPos) (s : State) : StepResult :=
  match pos with
  | .writeCs => andThen (s.writeCs quiescentCs) fun s => .next (s.moveTo (.initF .writeClk))
  | .writeClk => .next ((s.writeClk (zextHalf s.cfg.cfgClockDivisor)).moveTo (.initF .writeDlen))
  | .writeDlen => .next ((s.writeDlen (zextHalf s.cfg.errataDlen)).finish .success)

end Sys2Proof.Machine
end

