-- ==== Sys2Proof/Machine/Select.lean ====
section
/-! DEFINITION. SELECT (R240 to R248): validation, the interrupt sources, the clock mode, the divisor and the
chip select, each field by its own read-modify-write of two steps (R86). -/

namespace Sys2Proof.Machine

/-- The command word an illegal device index of SELECT records (R330). -/
def selectWord : Half := 0x8002#16

/-- R240: the position after the CS read of the interrupt branch: attach only when neither INTD nor INTR is
set in t. -/
def selectAfterRead (t : Word) : SelectPos :=
  if !Word.has t INTD && !Word.has t INTR then .attach else .enableRead

/-- R240: detach, its state and its event. -/
def State.detachLine (s : State) : State :=
  ({ s with seq.irqAttached := false, seq.irqCtx := none } : State).log (.detach s.cfg.irqLine)

/-- R240: a successful attach, its state and its event. -/
def State.attachLine (s : State) (d : Nat) : State :=
  ({ s with seq.irqAttached := true, seq.irqCtx := some d } : State).log (.attach s.cfg.irqLine d)

/-- R246, R323: the attach collaborator's answer is a draw. -/
def State.attachOk (s : State) : Bool := s.drawValue.getLsbD 0

/-- SELECT's first step: an invalid chip select returns with no bus transaction (R241); otherwise the first
action of R240 for this device. -/
def execSelect (d : Nat) (c : Word) (s : State) : StepResult :=
  match s.dev? d with
  | none => .fault (.illegalOp selectWord)
  | some D =>
    if !chipSelectValid c then .next (s.deliver .invalidArgument)
    else if D.wantsIrq then
      .next (s.readCs.push (.selectF d (chipIndex c) (selectAfterRead s.csRdata)))
    else if s.seq.irqAttached then .next (s.detachLine.push (.selectF d (chipIndex c) .modeRead))
    else .next (s.readCs.push (.selectF d (chipIndex c) (.modeClear s.csRdata)))

/-- R240: the rest of SELECT, one transaction or attach a step. -/
def selectAdvance (d : Nat) (c : BitVec 2) (pos : SelectPos) (s : State) : StepResult :=
  match s.dev? d with
  | none => .fault (.illegalOp selectWord)
  | some D =>
    match pos with
    | .attach =>
        if s.attachOk then .next ((s.drawn.attachLine d).moveTo (.selectF d c .enableRead))
        else .next (s.drawn.finish .irqAttachFailure)
    | .enableRead => .next (s.readCs.moveTo (.selectF d c (.enableWrite s.csRdata)))
    | .enableWrite t => andThen (s.writeCs (withEnables t D)) fun s => .next (s.moveTo (.selectF d c .modeRead))
    | .modeRead => .next (s.readCs.moveTo (.selectF d c (.modeClear s.csRdata)))
    | .modeClear t => andThen (s.writeCs (withoutMode t)) fun s => .next (s.moveTo (.selectF d c .modeSetRead))
    | .modeSetRead => .next (s.readCs.moveTo (.selectF d c (.modeSet s.csRdata)))
    | .modeSet t =>
        andThen (s.writeCs (withMode t D.mode)) fun s =>
          .next (s.moveTo (.selectF d c (if D.divisor = 0#16 then .chipRead else .divisor)))
    | .divisor => .next ((s.writeClk (zextHalf D.divisor)).moveTo (.selectF d c .chipRead))
    | .chipRead => .next (s.readCs.moveTo (.selectF d c (.chipWrite s.csRdata)))
    | .chipWrite t => andThen (s.writeCs (withChip t c)) fun s => .next (s.finish .success)

end Sys2Proof.Machine
end

