-- ==== Sys2Proof/Machine/Sequencer.lean ====
section
/-! DEFINITION. The next step of a running operation: one line of its pseudocode (R21, 42_driver_operations.md). -/

namespace Sys2Proof.Machine

/-- The innermost operation takes its next step. -/
def advance (f : Frame) (s : State) : StepResult :=
  match f with
  | .initF pos => initAdvance pos s
  | .selectF d c pos => selectAdvance d c pos s
  | .transferF d src dst n pos => transferAdvance d src dst n pos s
  | .pumpF d src dst q pos => pumpAdvance d src dst q pos s
  | .handlerF d pos => handlerAdvance d pos s

end Sys2Proof.Machine
end

