-- ==== Sys2Proof/Machine/Dispatch.lean ====
section
/-! DEFINITION. The meaning of every instruction, one arm each. -/

namespace Sys2Proof.Machine

def exec (i : Instr) (s : State) : Host.Outcome State Fault Refusal :=
  match i with
  | .csRead => Sys2Proof.Machine.execCsRead s
  | .csWrite w => Sys2Proof.Machine.execCsWrite w s
  | .fifoRead => Sys2Proof.Machine.execFifoRead s
  | .fifoWrite w => Sys2Proof.Machine.execFifoWrite w s
  | .clkRead => Sys2Proof.Machine.execClkRead s
  | .clkWrite w => Sys2Proof.Machine.execClkWrite w s
  | .dlenRead => Sys2Proof.Machine.execDlenRead s
  | .dlenWrite w => Sys2Proof.Machine.execDlenWrite w s
  | .ltohRead => Sys2Proof.Machine.execLtohRead s
  | .ltohWrite w => Sys2Proof.Machine.execLtohWrite w s
  | .dcRead => Sys2Proof.Machine.execDcRead s
  | .dcWrite w => Sys2Proof.Machine.execDcWrite w s
  | .init => Sys2Proof.Machine.execInit s
  | .select d c => Sys2Proof.Machine.execSelect d c s
  | .transfer d src dst n => Sys2Proof.Machine.execTransfer d src dst n s
  | .pump d src dst tx rx => Sys2Proof.Machine.execPump d src dst tx rx s
  | .irqHandler => Sys2Proof.Machine.execIrqHandler s

end Sys2Proof.Machine
end

