-- ==== Sys2Proof/Machine/Engine.lean ====
section
/-! DEFINITION. The ENGINE's steps LOAD, EDGE and STORE (R180 to R197), and the functions of the clock divider
and the data length that affect timing only (R185, R187). -/

namespace Sys2Proof.Machine

/-- R190: LOAD is enabled. -/
def State.loadEnabled (s : State) : Bool :=
  s.ta && !s.eng.busy && !s.eng.txq.isEmpty &&
  (s.cfg.rxFullPolicy == .drop || decide (s.eng.rxq.length < s.cfg.fifoDepth))

/-- R191: EDGE is enabled. -/
def State.edgeEnabled (s : State) : Bool := s.ta && s.eng.busy && decide (s.eng.edge < 16)

/-- R193: STORE is enabled; TA is 1 whenever it is (R181, log 30). -/
def State.storeEnabled (s : State) : Bool := s.ta && s.eng.busy && decide (s.eng.edge = 16)

/-- The ENGINE has a step whose own conditions hold. -/
def State.engineEnabled (s : State) : Bool := s.loadEnabled || s.edgeEnabled || s.storeEnabled

/-- R181: the mode guard, checked in the order X1, X2, X3. -/
def State.modeGuard (s : State) : Option Refusal :=
  if s.dmaen then some .dmaMode
  else if s.len then some .lossiMode
  else if s.ren then some .bidirMode
  else none

/-- R190: LOAD. With CPHA = 1 the level of MOSI before the first edge is still free (R207, log 17). -/
def State.load (s : State) : State :=
  match s.eng.txq with
  | [] => s
  | b :: rest =>
    if s.cpha then
      { s.drawn with
        eng := { s.eng with
                  txq := rest, shTx := b, shRx := 0x00#8, busy := true, edge := 0,
                  sclk := s.cpol, mosi := s.drawValue.getLsbD 0 } }
    else
      { s with
        eng := { s.eng with
                  txq := rest, shTx := b, shRx := 0x00#8, busy := true, edge := 0,
                  sclk := s.cpol, mosi := b.getLsbD 7 } }

/-- R191, R192: the SLAVE's answer to the sample of bit index j of the byte in flight. -/
def State.miso (s : State) (j : Nat) : Bool :=
  match s.env.slave with
  | .free => s.drawValue.getLsbD 0
  | .loopback => s.eng.mosi
  | .constant b => b.getLsbD (7 - j)

/-- The state after a sample: the free SLAVE's answer is a draw. -/
def State.sampled (s : State) : State :=
  match s.env.slave with
  | .free => s.drawn
  | .loopback => s
  | .constant _ => s

/-- A byte with one bit written. -/
def writeBit (v : Byte) (i : Nat) (b : Bool) : Byte :=
  if b then v ||| (1#8 <<< i) else v &&& ~~~(1#8 <<< i)

/-- R191: the sample of bit j: `sh_rx[7-j] <- MISO`. -/
def State.sampleEdge (s : State) (j : Nat) (sclk : Bool) : State :=
  { s.sampled with
    eng := { s.eng with shRx := writeBit s.eng.shRx (7 - j) (s.miso j), sclk := sclk, edge := s.eng.edge + 1 } }

/-- R191: an edge that drives MOSI. -/
def State.driveEdge (s : State) (mosi sclk : Bool) : State :=
  { s with eng := { s.eng with mosi := mosi, sclk := sclk, edge := s.eng.edge + 1 } }

/-- R191: EDGE, with e the edges before it, j = e div 2 and the leading edge the even one. -/
def State.edgeStep (s : State) : State :=
  let e := s.eng.edge
  let j := e / 2
  let leading := e % 2 == 0
  let sclk := s.cpol ^^ leading
  if s.cpha then
    if leading then s.driveEdge (s.eng.shTx.getLsbD (7 - j)) sclk else s.sampleEdge j sclk
  else if leading then s.sampleEdge j sclk
  else if j < 7 then s.driveEdge (s.eng.shTx.getLsbD (7 - (j + 1))) sclk
  else s.driveEdge s.eng.mosi sclk

/-- R197: whether the hardware resets DLEN.LEN at this STORE is a draw. -/
def State.dlenReset (s : State) : Bool := s.drawValue.getLsbD 0

/-- R193: STORE. When rxq is full the byte is lost, which only the drop policy allows (R196). -/
def State.store (s : State) : State :=
  { s.drawn with
    eng := { s.eng with
              rxq := if s.eng.rxq.length < s.cfg.fifoDepth then s.eng.rxq ++ [s.eng.shRx] else s.eng.rxq
              busy := false, edge := 0 }
    bank.dlen := if s.dlenReset then 0#16 else s.bank.dlen
    book.events := s.book.events ++ [.byte s.chip s.clockMode s.eng.shTx s.eng.shRx] }

/-- The ENGINE's step: the mode guard, then the one step that is enabled (R181, R190, R191, R193). -/
def engineStep (s : State) : StepResult :=
  match s.modeGuard with
  | some r => .refused r
  | none =>
    if s.loadEnabled then .next s.load
    else if s.edgeEnabled then .next s.edgeStep
    else .next s.store

/-! ## Timing only: read by no step (R185, R187, R400) -/

/-- R185: eff(CDIV): 0 means 65536, odd values round down, 1 is unspecified. -/
def effDivisor (cdiv : Half) : Nat :=
  if cdiv = 0#16 then 65536
  else if cdiv = 1#16 then Config.effDivisorOne
  else (cdiv &&& 0xFFFE#16).toNat

/-- R185: the SCLK period, `eff(CDIV) / P_CORE_CLOCK_HZ` seconds, as numerator and denominator. -/
def State.sclkPeriod (s : State) : Nat × Nat := (effDivisor s.bank.cdiv, s.cfg.coreClockHz)

/-- R187: idle SCLK periods between two bytes in non-DMA operation. -/
def idleClocks (dlen : Half) : Nat := if dlen = 0#16 ∨ dlen = 1#16 then 1 else 0

end Sys2Proof.Machine
end

