-- ==== Sys2Proof/Machine/HostAgent.lean ====
section
/-! DEFINITION. The HOST agent: host program lines (R120, R121), fetching a command, issuing an instruction,
and the choice of the agent that moves (R7, R341, R344). -/

namespace Sys2Proof.Machine

/-- The transactions, which end in the step that issues them; the others are sequencer operations. -/
def busInstr : Instr → Bool
  | .csRead => true
  | .csWrite _ => true
  | .fifoRead => true
  | .fifoWrite _ => true
  | .clkRead => true
  | .clkWrite _ => true
  | .dlenRead => true
  | .dlenWrite _ => true
  | .ltohRead => true
  | .ltohWrite _ => true
  | .dcRead => true
  | .dcWrite _ => true
  | .init => false
  | .select _ _ => false
  | .transfer _ _ _ _ => false
  | .pump _ _ _ _ _ => false
  | .irqHandler => false

/-- The transactions that return RDATA. -/
def readInstr : Instr → Bool
  | .csRead => true
  | .fifoRead => true
  | .clkRead => true
  | .dlenRead => true
  | .ltohRead => true
  | .dcRead => true
  | .csWrite _ => false
  | .fifoWrite _ => false
  | .clkWrite _ => false
  | .dlenWrite _ => false
  | .ltohWrite _ => false
  | .dcWrite _ => false
  | .init => false
  | .select _ _ => false
  | .transfer _ _ _ _ => false
  | .pump _ _ _ _ _ => false
  | .irqHandler => false

/-- The program goes on at its next line, and `dst` is the variable the instruction's value goes to. -/
def State.issued (s : State) (dst : Option Nat) : State :=
  { s with host.pc := s.host.pc + 1, host.dst := dst }

/-- R120: the end of a line whose transaction is done: RDATA goes to the line's variable. -/
def State.lineDone (s : State) (i : Instr) : State :=
  if busInstr i then
    { s with
      host.vars := (if readInstr i then keepIn s.host.vars s.host.dst (.word s.host.rdata) else s.host.vars)
      host.dst := none }
  else s

/-- The HOST issues an instruction from its program. -/
def issue (i : Instr) (dst : Option Nat) (s : State) : StepResult :=
  andThen (exec i (s.issued dst)) fun s => .next (s.lineDone i)

/-- R116: what bytes that are no instruction come to. -/
def decodeStop : DecodeError → StepResult
  | .illegalOp w => .fault (.illegalOp w)
  | .busSize w => .fault (.busSize w)
  | .busUnmapped w => .fault (.busUnmapped w)
  | .truncated => .refused .malformedCommand
  | .badBufferTag _ => .refused .malformedCommand

/-- Decode the bytes of a command line and issue the instruction. -/
def runBytes (bytes : List Byte) (dst : Option Nat) (s : State) : StepResult :=
  match decode bytes with
  | .ok (i, _) => issue i dst s
  | .error e => decodeStop e

/-- R120: the value of an expression, or a variable it reads that holds no word (R22). -/
def evalExpr (vars : List (Nat × HostVal)) : Expr → Except Nat Word
  | .const w => .ok w
  | .var v =>
    match lookupVar vars v with
    | some (.word w) => .ok w
    | _ => .error v
  | .or a b =>
    match evalExpr vars a, evalExpr vars b with
    | .ok x, .ok y => .ok (x ||| y)
    | .error v, _ => .error v
    | _, .error v => .error v
  | .and a b =>
    match evalExpr vars a, evalExpr vars b with
    | .ok x, .ok y => .ok (x &&& y)
    | .error v, _ => .error v
    | _, .error v => .error v
  | .not a =>
    match evalExpr vars a with
    | .ok x => .ok (~~~x)
    | .error v => .error v

/-- R120: a condition. -/
def evalCond (vars : List (Nat × HostVal)) : Cond → Except Nat Bool
  | .eq a b =>
    match evalExpr vars a, evalExpr vars b with
    | .ok x, .ok y => .ok (x == y)
    | .error v, _ => .error v
    | _, .error v => .error v
  | .ne a b =>
    match evalExpr vars a, evalExpr vars b with
    | .ok x, .ok y => .ok (x != y)
    | .error v, _ => .error v
    | _, .error v => .error v

/-- One line of the host program (R120, R121). -/
def runLine (l : HostLine) (s : State) : StepResult :=
  match l with
  | .command bytes dst => runBytes bytes dst s
  | .call i dst => issue i dst s
  | .write w e =>
    match evalExpr s.host.vars e with
    | .ok v => runBytes (bytes16 w ++ bytes32 v) none s
    | .error v => .fault (.unwrittenVariable v)
  | .cli => .next { s with host.pc := s.host.pc + 1, seq.ie := false }
  | .sti => .next { s with host.pc := s.host.pc + 1, seq.ie := true }
  | .goto n => .next { s with host.pc := n }
  | .ifGoto c n =>
    match evalCond s.host.vars c with
    | .ok b => .next { s with host.pc := if b then n else s.host.pc + 1 }
    | .error v => .fault (.unwrittenVariable v)

/-- The HOST's step: the innermost operation of its context goes on (R21); in interrupt context with nothing
running it starts IRQ_HANDLER (R341); in thread context it takes the program's next line. -/
def hostStep (s : State) : StepResult :=
  match s.stack, s.seq.ctx with
  | f :: _, _ => advance f s
  | [], .interrupt => exec .irqHandler s
  | [], .thread =>
    match s.host.lines[s.host.pc]? with
    | some l => runLine l s
    | none => .fault .stuck

/-- The HOST has a step: an operation is running, or the program has a line left. -/
def State.hostEnabled (s : State) : Bool :=
  s.seq.ctx == .interrupt || !s.seq.thread.isEmpty || decide (s.host.pc < s.host.lines.length)

/-- R341, R344: delivery is enabled: IRQ = 1, host.ie = 1, thread context. -/
def State.deliveryEnabled (s : State) : Bool := s.irq && s.seq.ie && s.seq.ctx == .thread

/-- R341: entry when the line is attached; R344: F7, with the CS value, when it is not. -/
def deliveryStep (s : State) : StepResult :=
  if s.seq.irqAttached then .next s.enterInterrupt else .fault (.unhandledIrq s.csWord)

/-- The agents that have a step (R7). -/
def State.enabledAgents (s : State) : List Agent :=
  (if s.hostEnabled then [.host] else []) ++ (if s.engineEnabled then [.engine] else []) ++
  (if s.deliveryEnabled then [.delivery] else [])

/-- R341: an interrupt entry is enabled. -/
def State.entryEnabled (s : State) : Bool := s.deliveryEnabled && s.seq.irqAttached

/-- R218: an enabled ENGINE step has been passed over for as long as it may be (log 7). -/
def State.engineDue (s : State) : Bool :=
  s.engineEnabled && decide (s.env.engineSince + Config.enginePatience s.env.engineSince ≤ s.env.fresh)

/-- R341: an enabled entry has been passed over for as long as it may be (log 7). -/
def State.entryDue (s : State) : Bool :=
  s.entryEnabled && decide (s.env.entrySince + Config.entryPatience s.env.entrySince ≤ s.env.fresh)

/-- R218, R341: the agent `a` moves: since when the ENGINE's step and the entry wait. An agent that moves, or has no
step, waits from now on. -/
def State.waited (s : State) (a : Agent) : State :=
  { s with
    env.engineSince := if s.engineEnabled && a != .engine then s.env.engineSince else s.env.fresh
    env.entrySince := if s.entryEnabled && a != .delivery then s.env.entrySince else s.env.fresh }

/-- R7, R218, R341: which of two or more enabled agents moves, where no choice is fixed: an entry or an ENGINE step
that is due, else any of them, by `Config.freeChoice` (log 7). The entry goes first; it leaves thread context, so it does
not keep the ENGINE waiting twice. -/
def State.freeAgent (s : State) (a b : Agent) (rest : List Agent) : Agent :=
  if s.entryDue then .delivery
  else if s.engineDue then .engine
  else (a :: b :: rest).getD (Config.freeChoice s.env.fresh % (rest.length + 2)) a

/-- R7: which enabled agent moves next, where several are, is free: the next fixed choice if there is one, else
`freeAgent`'s (log 7). A fixed choice that is not enabled falls to the first that is. -/
def State.chooseAgent (s : State) : Option (Agent × State) :=
  match s.enabledAgents with
  | [] => none
  | [a] => some (a, s.waited a)
  | a :: b :: rest =>
    match s.env.sched with
    | c :: cs =>
      let x := if c ∈ a :: b :: rest then c else a
      some (x, { s.waited x with env.sched := cs })
    | [] =>
      let x := s.freeAgent a b rest
      some (x, { s.waited x with env.fresh := s.env.fresh + 1 })

/-- One step of an agent. -/
def agentStep (a : Agent) (s : State) : StepResult :=
  match a with
  | .host => hostStep s
  | .engine => engineStep s
  | .delivery => deliveryStep s

/-- Every step is a new instant for the free levels (log 18). -/
def State.tick (s : State) : State := { s with env.fresh := s.env.fresh + 1 }

/-- R296: a callback with an effect makes the configuration one the model refuses. -/
def Callback.acts : Callback → Bool
  | .hook _ => false
  | .acting _ => true

/-- R296: no device has a callback that acts. -/
def State.callbacksInert (s : State) : Bool :=
  s.seq.devs.all fun D => !D.onSendComplete.acts && !D.onDataReceived.acts

/-- The run has ended or may not start: a recorded fault (R330), a recorded refusal (R333), invalid parameters
(X5), a callback that acts (X4). A value outside R8's range that R9 does not list stops nothing (DESIGN CHOICE,
log 32). -/
def State.runStop (s : State) : Option StepResult :=
  if !s.book.faults.isEmpty then some (.fault (.runFaulted s.book.faults))
  else if s.book.refused then some (.refused .runRefused)
  else if !s.cfg.valid then some (.refused .paramInvalid)
  else if !s.callbacksInert then some (.refused .callbackEffect)
  else none

/-- R406: a final state. -/
def State.final (s : State) : Bool :=
  decide (s.host.lines.length ≤ s.host.pc) && s.seq.ctx == .thread && s.seq.thread.isEmpty &&
  s.book.faults.isEmpty && !s.book.refused &&
  s.seq.devs.all (fun D => decide (D.remaining = 0)) &&
  !s.eng.busy && s.eng.txq.isEmpty &&
  !(s.irq && s.seq.ie)

/-- The end of a run in which no agent can step (R406): final, or stuck. -/
def State.endOfRun (s : State) : StepResult := if s.final then .refused .runComplete else .fault .stuck

end Sys2Proof.Machine
end

