-- ==== Sys2Proof/Machine/Step.lean ====
section
/-! DEFINITION. One step of the machine: the agent whose turn it is takes one step (R7, R89). -/

namespace Sys2Proof.Machine

/-- One step. A run that has ended takes none (R330, R333); a state in which no agent can step is final or stuck
(R406); otherwise one enabled agent takes one step. -/
def step (s : State) : Host.Outcome State Fault Refusal :=
  match s.runStop with
  | some o => o
  | none =>
    match s.chooseAgent with
    | none => s.endOfRun
    | some (a, s) => andThen (agentStep a s) fun s => .next s.tick

/-- The state with a table word (as `tableBytes` lays it out) as its whole host program, the HOST in thread
context with nothing running, and the HOST's turn: the next step fetches and runs exactly that instruction. This
stands for loading a program from outside the machine (log 11). -/
def State.withFetchWord (s : State) (nbits w : Nat) : State :=
  { s with
    host.lines := [.command (tableBytes nbits w) none]
    host.pc := 0
    seq.ctx := .thread
    seq.thread := []
    seq.intr := []
    env.sched := .host :: s.env.sched }

end Sys2Proof.Machine
end

