-- ==== Sys2Proof/Machine/Lines.lean ====
section
/-! DEFINITION. The output lines of the block (R48): the chip-select sequencer (R205, R206), SCLK and MOSI
(R191, R207). Where the spec leaves a level free it is `Config.freeLevel` at this instant (log 18). -/

namespace Sys2Proof.Machine

/-- R205: CSPOLk differs from CSPOL for this line, k ∈ {0, 1, 2}. -/
def State.polarityDiffers (s : State) (n : Fin 4) : Bool := decide (n.val < 3) && s.linePolarity n.val != s.cspol

/-- R205: the level of CS_LINE[n]. -/
def State.csLine (s : State) (n : Fin 4) : Bool :=
  if s.polarityDiffers n then Config.freeLevel s.env.fresh (.csLine n)
  else if !s.ta then !s.cspol
  else if s.chip = 3#2 then Config.freeLevel s.env.fresh (.csLine n)
  else if n.val = s.chip.toNat then s.cspol
  else !s.cspol

/-- R191, R207: the level of SCLK: what the last edge drove while a byte is in flight, CPOL otherwise. -/
def State.sclkLevel (s : State) : Bool := if s.eng.busy then s.eng.sclk else s.cpol

/-- R191, R207: the level of MOSI, a draw while no byte is in flight. -/
def State.mosiLevel (s : State) : Bool := if s.eng.busy then s.eng.mosi else Config.freeLevel s.env.fresh .mosi

end Sys2Proof.Machine
end

