-- ==== Sys2Proof/Safety.lean ====
section
/-! DEFINITION. What a run is and what a good state is: the bookkeeping of a step that ends a run (R57, R58), what
is observed at the end (R406), runs of one agent alone, and the invariant that rules out the states no run
reaches. -/

namespace Sys2Proof.Machine

/-! ## Bookkeeping of the end of a run -/

/-- The state after a step, with what R57 and R58 record when the step ends the run: a fault is added to `faults`
and a refusal sets `refused`, with no other effect (R330, R333). The ends that the spec does not give a code (a
complete run, a stuck one, a run already over) record nothing. -/
def settle (s : State) : State :=
  match step s with
  | .next s' => s'
  | .fault f => s.raise f
  | .refused .runComplete => s
  | .refused _ => s.refuse

/-- R406: what is observed of a final state. -/
structure Observation where
  cs : Word
  cdiv : Half
  /-- DLEN.LEN is observed only as P_ERRATA_DLEN or 0 (the draw of R197): whether it is one of the two. -/
  dlenErrataOrZero : Bool
  toh : BitVec 4
  dc : Word
  rxq : List Byte
  devs : List LogicalDevice
  mem : List Host.Cell
  events : List Event
  deriving DecidableEq, Repr

/-- R406: the observation of a state. -/
def State.observe (s : State) : Observation where
  cs := s.bank.cs
  cdiv := s.bank.cdiv
  dlenErrataOrZero := s.bank.dlen = s.cfg.errataDlen || s.bank.dlen = 0#16
  toh := s.bank.toh
  dc := s.bank.dc
  rxq := s.eng.rxq
  devs := s.seq.devs
  mem := s.mem
  events := s.book.events

/-- R290: the two transfer states of a device. -/
def LogicalDevice.armed (D : LogicalDevice) : Bool := decide (0 < D.remaining)

/-! ## Infinite runs (R218, R325, R341, R406) -/

/-- An infinite run: every state's step answers the next. -/
def IsRun (r : Nat → State) : Prop := ∀ n, step (r n) = .next (r (n + 1))

/-- The agent that moves in a state, if any can. -/
def State.mover (s : State) : Option Agent := s.chooseAgent.map Prod.fst

/-- R218: what stays enabled from some state of the run on, `a` takes at that state or a later one. -/
def EventuallyTaken (r : Nat → State) (enabled : State → Bool) (a : Agent) : Prop :=
  ∀ n, (∀ m, n ≤ m → enabled (r m) = true) → ∃ m, n ≤ m ∧ (r m).mover = some a

/-- R218, R341: a weakly fair run, for the ENGINE's steps and for interrupt entries. -/
def WeaklyFair (r : Nat → State) : Prop :=
  EventuallyTaken r State.engineEnabled .engine ∧ EventuallyTaken r State.entryEnabled .delivery

/-- R325, R406: a hang is an infinite weakly fair run. -/
def State.hangs (s : State) : Prop := ∃ r, r 0 = s ∧ IsRun r ∧ WeaklyFair r

/-! ## Runs of one agent -/

/-- `n` steps of the HOST with no other agent between them. -/
def hostRun : Nat → State → StepResult
  | 0, s => .next s
  | n + 1, s => andThen (hostStep s) (hostRun n)

/-- The ENGINE takes `n` enabled steps with no other agent between them; where it has none it waits. -/
def engineRun : Nat → State → StepResult
  | 0, s => .next s
  | n + 1, s => if s.engineEnabled then andThen (engineStep s) (engineRun n) else .next s

/-- LOAD, the 16 EDGEs and STORE of one byte (R190, R191, R193). -/
def engineByte (s : State) : StepResult := engineRun 18 s

/-! ## The invariant -/

/-- A TRANSFER that waits for its PUMP. -/
def Frame.awaitsPump : Frame → Bool
  | .transferF _ _ _ _ .chunkPump => true
  | .transferF _ _ _ _ (.polledPump _) => true
  | _ => false

/-- An IRQ_HANDLER that waits for its TRANSFER. -/
def Frame.awaitsTransfer : Frame → Bool
  | .handlerF _ (.chunkA _) => true
  | .handlerF _ (.chunkB _ _) => true
  | _ => false

/-- The shapes of the thread context's operations: one that the program issued, and PUMP above the TRANSFER that
called it (R114). -/
def threadShape : List Frame → Bool
  | [] => true
  | [.initF _] => true
  | [.selectF _ _ _] => true
  | [.transferF _ _ _ _ _] => true
  | [.pumpF _ _ _ _ _, f] => f.awaitsPump
  | _ => false

/-- The shapes of the interrupt context's operations: IRQ_HANDLER, its TRANSFER, its PUMP (R280). -/
def intrShape : List Frame → Bool
  | [] => true
  | [.handlerF _ _] => true
  | [.transferF _ _ _ _ _, f] => f.awaitsTransfer
  | [.pumpF _ _ _ _ _, f, g] => f.awaitsPump && g.awaitsTransfer
  | _ => false

/-- The interrupt mask a TRANSFER has saved, if it has. -/
def Frame.savedMask : Frame → Option Bool
  | .transferF _ _ _ _ (.polledPump saved) => some saved
  | .transferF _ _ _ _ (.leaveCritical saved _) => some saved
  | _ => none

/-- What every step keeps. Each field is a fact the rules derive, or one that rules out states no run reaches. -/
structure Inv (s : State) : Prop where
  /-- R24, R27, R38: only the stored fields of CS are held. -/
  csStoredOnly : s.bank.cs &&& ~~~csStored = 0#32
  /-- R45. -/
  txBound : s.eng.txq.length ≤ s.cfg.fifoDepth
  /-- R46. -/
  rxBound : s.eng.rxq.length ≤ s.cfg.fifoDepth
  /-- R47. -/
  edgeBound : s.eng.edge ≤ 16
  /-- R190, R193: no byte in flight, no edges. -/
  idleEdge : s.eng.busy = false → s.eng.edge = 0
  /-- R144, R193: a byte is in flight only while TA = 1. -/
  busyActive : s.eng.busy = true → s.ta = true
  /-- R193: under the stall policy the byte in flight has room in the RX FIFO. -/
  rxRoom : s.eng.busy = true → s.cfg.rxFullPolicy = .stall → s.eng.rxq.length < s.cfg.fifoDepth
  /-- Host memory keeps its canonical form. -/
  memWf : Memory.wf s.mem = true
  /-- R346: nothing runs in interrupt context while the HOST is in thread context. -/
  threadOnly : s.seq.ctx = .thread → s.seq.intr = []
  /-- R341, R346: the handler runs with host.ie = 0. -/
  handlerMasked : s.seq.ctx = .interrupt → s.seq.ie = false
  /-- R281: the handler runs only while the line is attached. -/
  handlerAttached : s.seq.ctx = .interrupt → s.seq.irqAttached = true
  /-- R53: the line is attached exactly when a device context is held. -/
  attachedCtx : s.seq.irqAttached = s.seq.irqCtx.isSome
  /-- R281: the context is a device. -/
  ctxDevice : ∀ d, s.seq.irqCtx = some d → d < s.seq.devs.length
  /-- R11: remaining counts stay in the signed 32-bit range. -/
  remainingRange : ∀ D ∈ s.seq.devs, inInt32 D.remaining = true
  /-- R21, R114: the operations of the thread context. -/
  threadOk : threadShape s.seq.thread = true
  /-- R280: the operations of the interrupt context. -/
  intrOk : intrShape s.seq.intr = true
  /-- R263, R341: a mask saved in interrupt context is 0. -/
  savedMasked : ∀ f ∈ s.seq.intr, f.savedMask ≠ some true

end Sys2Proof.Machine
end

