-- ==== Sys2Proof/Certificates/Slice0/Obligations.lean ====
section
/-! DEFINITION. The statements for the provers. Bits of CS are written by their numbers in R24, masks as the words
R24 and R39 give, so that a statement does not rest on the model's own names for them. Into how many HOST steps the lines of an operation
are taken (the counts of hostRun) is the model's reading of R21 and R85 (log 10), not a rule's claim. -/

namespace Sys2Proof.Spec

open Sys2Proof.Machine

/-- The RW fields of CS by R24: bits 1:0, 2, 3, 6 to 15, 21 to 25. -/
def rwBits : Word := 0x03E0FFCF#32

/-- The configuration fields of CS by R39. -/
def cfgBits : Word := 0x03E0394F#32

/-- Only RW fields of CS are stored (a field of the invariant). -/
def csClean (s : State) : Prop := s.bank.cs &&& ~~~rwBits = 0#32

/-- The HOST is in thread context with no operation running: the program is about to issue a line. -/
def idle (s : State) : Prop := s.seq.ctx = .thread ∧ s.seq.thread = []

/-- TA, and a byte in flight. -/
def midByte (s : State) : Prop := s.bank.cs.getLsbD 7 = true ∧ s.eng.busy = true

/-- DMAEN, LEN and REN are 0 (R181). -/
def standardMode (s : State) : Prop :=
  s.bank.cs.getLsbD 8 = false ∧ s.bank.cs.getLsbD 13 = false ∧ s.bank.cs.getLsbD 12 = false

/-- The inputs of the run are where they were: only draws have been used. -/
def sameInputs (a b : Environment) : Prop := a.slave = b.slave ∧ a.sched = b.sched

/-- The program's operation has ended with a result, kept in its variable if the line names one. -/
def ended (h : HostProgram) (r : OpResult) : HostProgram :=
  { h with result := some r, vars := keepIn h.vars h.dst (.result r), dst := none }

/-- The same program with another RDATA. -/
def withRdata (h : HostProgram) (v : Word) : HostProgram := { h with rdata := v }

/-- The history with more events, the rest of the bookkeeping as it was. -/
def recorded (b : Book) (es : List Event) : Book := { b with events := b.events ++ es }

/-- A CS read in the history. -/
def csReadEv (v : Word) : Event := .bus .csRead 0x00#8 v

/-- A CS write in the history. -/
def csWriteEv (w : Word) : Event := .bus .csWrite 0x00#8 w

/-- A device's configuration (R383): what no rule changes. -/
def deviceConfig (D : LogicalDevice) : BitVec 2 × BitVec 2 × Half × Bool × Bool × Callback × Callback :=
  (D.csIndex, D.mode, D.divisor, D.irqDone, D.irqRecv, D.onSendComplete, D.onDataReceived)

/-- What R240's mode and chip-select writes leave in CS: CPOL and CPHA from the mode, CS from the index. -/
def configuredCs (cs : Word) (mode c : BitVec 2) : Word :=
  (cs &&& ~~~0x0000000F#32) ||| (mode.setWidth 32 <<< 2) ||| c.setWidth 32

/-- SELECT meets no fault condition: TA = 0, or mode and chip select already are as it will leave them (R143). -/
def selectQuiet (s : State) (D : LogicalDevice) (c : Word) : Prop :=
  s.bank.cs.getLsbD 7 = false ∨
    (s.bank.cs.extractLsb' 2 2 = 0#2 ∧ D.mode = 0#2 ∧ s.bank.cs.extractLsb' 0 2 = c.extractLsb' 0 2)

/-- The line of R250 that the loop test leads to: a TX step while TX bytes are pending (with an input buffer its TXD
wait, else the filler), the RX step's wait otherwise, and the drain when the loop ends (R251). -/
def loopTest (src dst : Option Nat) (q : TransferRequest) : PumpPos :=
  if (q.tx < q.txCount ∧ src ≠ none) ∨ (q.rx < q.rxCount ∧ dst ≠ none) then
    if q.tx < q.txCount then (if src ≠ none then .waitTxd 0 else .pushFiller) else .waitRxd 0
  else .drainRead

/-- The line after an iteration's TX step: its RX step while an output buffer has bytes pending, else the loop test. -/
def afterTx (src dst : Option Nat) (q : TransferRequest) : PumpPos :=
  if q.rx < q.rxCount ∧ dst ≠ none then .waitRxd 0 else loopTest src dst q

/-- The two positions at which a TRANSFER waits for its PUMP: the re-entrant call's and the polled call's. -/
def atPump (pos : TransferPos) : Prop := pos = .chunkPump ∨ ∃ saved, pos = .polledPump saved

/-- Where TRANSFER goes on when its PUMP returns the count n: the re-entrant call takes n from the device, the polled
call restores the interrupt mask it saved. -/
def pumpReturn (n : Nat) : TransferPos → TransferPos
  | .polledPump saved => .leaveCritical saved false
  | _ => .chunkRemaining n

/-- The two positions at which IRQ_HANDLER waits for its chunk: branch A's and branch B's. -/
def atChunk (pos : HandlerPos) : Prop := (∃ n, pos = .chunkA n) ∨ ∃ n before, pos = .chunkB n before

/-- Where IRQ_HANDLER goes on after its chunk: branch B keeps the count it compares with (R280). -/
def afterChunk : HandlerPos → HandlerPos
  | .chunkB _ before => .afterB before
  | _ => .afterA

/-- The fault codes of R330: what a fault is recorded as. -/
def recordedAs (f : Fault) (c : FaultCode) : Prop :=
  (∃ w, f = .busSize w ∧ c = .busSize) ∨ (∃ w, f = .busUnmapped w ∧ c = .busUnmapped) ∨
  (∃ w, f = .fifoInactive w ∧ c = .fifoInactive) ∨ (∃ w v, f = .txOverflow w v ∧ c = .txOverflow) ∨
  (∃ x w, f = .configActive x w ∧ c = .configActive) ∨ (∃ x w, f = .taMidbyte x w ∧ c = .taMidbyte) ∨
  (∃ v, f = .unhandledIrq v ∧ c = .unhandledIrq) ∨ (∃ w, f = .illegalOp w ∧ c = .illegalOp)

/-- PUMP stands at a busy-wait, given by its position for each count of polls, whose flag is 0: TXD, RXD or DONE. -/
def unsatisfiedWait (s : State) (wait : Nat → PumpPos) : Prop :=
  (wait = .waitTxd ∧ s.cfg.fifoDepth ≤ s.eng.txq.length) ∨ (wait = .waitRxd ∧ s.eng.rxq = []) ∨
  (wait = .waitDone ∧ ¬ (s.bank.cs.getLsbD 7 = true ∧ s.eng.txq = [] ∧ s.eng.busy = false))

/-- One iteration of PUMP's loop with both buffers on a block whose engine moves the byte at once: the TXD poll and
the push, LOAD to STORE, the RXD poll, the pop and the store to memory (R251). -/
def pumpRound (s : State) : StepResult :=
  andThen (hostRun 2 s) fun s => andThen (engineByte s) fun s => hostRun 3 s

/-- `n` such iterations. -/
def pumpRounds : Nat → State → StepResult
  | 0, s => .next s
  | n + 1, s => andThen (pumpRound s) (pumpRounds n)

/-- The HOST is running SELECT, or its next step issues one. -/
def selecting (s : State) : Prop :=
  (∃ d c pos l, s.stack = .selectF d c pos :: l) ∨
  (idle s ∧ ∃ bytes dst d c rest, s.host.lines[s.host.pc]? = some (.command bytes dst) ∧
    decode bytes = .ok (.select d c, rest)) ∨
  (idle s ∧ ∃ d c dst, s.host.lines[s.host.pc]? = some (.call (.select d c) dst)) ∨
  (idle s ∧ ∃ w e v d c rest, s.host.lines[s.host.pc]? = some (.write w e) ∧ evalExpr s.host.vars e = .ok v ∧
    decode (bytes16 w ++ bytes32 v) = .ok (.select d c, rest))

end Sys2Proof.Spec

open Sys2Proof Sys2Proof.Machine Sys2Proof.Spec

/-! ## Encoding -/

/-- R111, R113, R114, R119 with the byte layout of log 4: decoding an encoded instruction gives it back, with every
operand, and leaves the bytes after it. -/
def Obligations.DecodeOfEncodeIsTheInstruction : Prop :=
  ∀ (i : Instr) (rest : List Byte), i.wellFormed = true → decode (encode i ++ rest) = .ok (i, rest)

/-- R119, R127: command words written out from R111 and R113, low byte first (log 4), decode to their instructions. -/
def Obligations.CommandWordsOfTheTableDecode : Prop :=
  decode [0x00#8, 0x04#8] = .ok (.csRead, []) ∧
  decode [0x00#8, 0x05#8, 0x30#8, 0x00#8, 0x00#8, 0x00#8] = .ok (.csWrite 0x00000030#32, []) ∧
  decode [0x04#8, 0x04#8] = .ok (.fifoRead, []) ∧
  decode [0x08#8, 0x05#8, 0x78#8, 0x56#8, 0x34#8, 0x12#8] = .ok (.clkWrite 0x12345678#32, []) ∧
  decode [0x14#8, 0x04#8] = .ok (.dcRead, []) ∧
  decode [0x01#8, 0x80#8] = .ok (.init, []) ∧
  decode [0x05#8, 0x80#8] = .ok (.irqHandler, [])

/-- R116: illegal and reserved encodings, the first match deciding. Issuing such a word (low byte first, log 4) raises the
fault, with the command word, and has no other effect. -/
def Obligations.IllegalEncodingsFaultInOrder : Prop :=
  ∀ (w : Half) (rest : List Byte) (dst : Option Nat) (s : State),
    let issue := runBytes (bytes16 w ++ rest) dst s
    (w.getLsbD 15 = false → w.extractLsb' 11 4 ≠ 0#4 → issue = .fault (.illegalOp w)) ∧
    (w.getLsbD 15 = true →
      (w.extractLsb' 4 11 ≠ 0#11 ∨ w.extractLsb' 0 4 = 0x0#4 ∨ 6 ≤ (w.extractLsb' 0 4).toNat) →
      issue = .fault (.illegalOp w)) ∧
    (w.getLsbD 15 = false → w.extractLsb' 11 4 = 0#4 → w.extractLsb' 9 2 ≠ 0b10#2 →
      issue = .fault (.busSize w)) ∧
    (w.getLsbD 15 = false → w.extractLsb' 11 4 = 0#4 → w.extractLsb' 9 2 = 0b10#2 →
      w.extractLsb' 0 8 ∉ [0x00#8, 0x04#8, 0x08#8, 0x0C#8, 0x10#8, 0x14#8] →
      issue = .fault (.busUnmapped w))

/-! ## Steps -/

/-- When it is the HOST's turn in thread context with nothing running, and its line's bytes (those of a command line, or
the command word and the value of a `wr` line, R120) decode to i, or its line is a call of i with its record, the step is exec of i with the program moved past
the line and i's destination noted, and after it a read's value put in the line's variable and a new instant begun. That
the program moves on and the destination is noted before the operation ends is the model's choice (log 11, DESIGN
CHOICE), and so is the new instant of every step (log 18). -/
def Obligations.StepRunsTheDecodedInstruction : Prop :=
  ∀ (s s1 : State) (dst : Option Nat) (i : Instr),
    s.runStop = none → s.chooseAgent = some (.host, s1) → idle s →
    (s.host.lines[s.host.pc]? = some (.call i dst) ∨
      ∃ bytes rest, decode bytes = .ok (i, rest) ∧ i.wellFormed = true ∧
        (s.host.lines[s.host.pc]? = some (.command bytes dst) ∨
          ∃ w e v, s.host.lines[s.host.pc]? = some (.write w e) ∧ evalExpr s.host.vars e = .ok v ∧
            bytes = bytes16 w ++ bytes32 v ∧ dst = none)) →
    step s = andThen (exec i (s1.issued dst)) (fun t => .next (t.lineDone i).tick) ∧
    s1 = { s with env := s1.env } ∧ s1.env.slave = s.env.slave ∧ s1.env.supply = s.env.supply

/-- R371, R381, R24: what reset leaves, for the state the spec gives a value. -/
def Obligations.ResetLeavesTheTabledValues : Prop :=
  let s := State.reset
  s.bank = { cs := 0x00001000#32, cdiv := 0x0000#16, dlen := 0x0000#16, toh := 0x1#4, dc := 0x30203020#32 } ∧
  s.csWord = 0x00041000#32 ∧
  s.eng.txq = [] ∧ s.eng.rxq = [] ∧ s.eng.busy = false ∧ s.eng.edge = 0 ∧
  s.sclkLevel = false ∧ (∀ n, s.csLine n = true) ∧ s.irq = false ∧
  (∀ D ∈ s.seq.devs, D.src = none ∧ D.dst = none ∧ D.remaining = 0) ∧
  s.seq.irqAttached = false ∧ s.seq.irqCtx = none ∧ s.seq.ctx = .thread ∧ s.seq.ie = true ∧
  s.book = { faults := [], refused := false, events := [] }

/-- The state after reset meets the invariant. -/
def Obligations.ResetMeetsTheInvariant : Prop := Inv State.reset

/-- Every step keeps the invariant: reserved and read-only bits of CS are never stored, the FIFOs stay within their
depth, a byte is in flight only while TA = 1 and, under the stall policy, has room in the RX FIFO, host memory keeps
its canonical form, the handler runs with host.ie = 0 on an attached line, and the running operations keep their
shape. -/
def Obligations.StepKeepsTheInvariant : Prop := ∀ s s' : State, Inv s → step s = .next s' → Inv s'

/-- R57, R58, R330, R333: a run whose faults are not empty, or that has been refused, takes no further step, and a step
that answers a next state has recorded neither. Recording is `settle`'s (log 12): a step that ends in one of F1 to F8
adds its code to the faults, and one that ends in one of X1 to X6 sets `refused`, and neither changes anything else. -/
def Obligations.RecordedFaultOrRefusalEndsTheRun : Prop :=
  (∀ s : State, s.book.faults ≠ [] → step s = .fault (.runFaulted s.book.faults)) ∧
  (∀ s : State, s.book.faults = [] → s.book.refused = true → step s = .refused .runRefused) ∧
  (∀ s s' : State, step s = .next s' → s'.book.faults = [] ∧ s'.book.refused = false) ∧
  (∀ (s : State) (f : Fault) (c : FaultCode), s.book.faults = [] → step s = .fault f → recordedAs f c →
    settle s = { s with book.faults := [c] }) ∧
  (∀ (s : State) (r : Refusal), step s = .refused r →
    r ∈ [.dmaMode, .lossiMode, .bidirMode, .callbackEffect, .paramInvalid, .internalOp] →
    settle s = { s with book.refused := true })

/-- R9, R296, R333: a configuration that breaks R9 is refused (X5), and one whose callback acts (X4). That both are
checked before any agent moves, X5 before X4, is the model's reading (log 20, DEDUCED). -/
def Obligations.InvalidConfigurationsAreRefused : Prop :=
  ∀ s : State, s.book.faults = [] → s.book.refused = false →
    ((s.cfg.rxrThreshold < 1 ∨ s.cfg.fifoDepth < s.cfg.rxrThreshold ∨ s.cfg.txLowWater < 1 ∨
      s.cfg.fifoDepth < s.cfg.txLowWater ∨ s.cfg.rxHighWater < 1 ∨ s.cfg.fifoDepth < s.cfg.rxHighWater ∨
      s.cfg.errataDlen = 0#16 ∨ s.cfg.errataDlen = 1#16) → step s = .refused .paramInvalid) ∧
    (s.cfg.valid = true → (∃ D ∈ s.seq.devs, ∃ n, D.onSendComplete = .acting n ∨ D.onDataReceived = .acting n) →
      step s = .refused .callbackEffect)

/-! ## Register transactions -/

/-- R140: CS_READ completes in every state and answers the stored fields, 0 in the CLEAR bits and the five flags as
their equations (R33 to R37) give; it changes nothing but RDATA, the history and the draws. -/
def Obligations.CsReadReturnsFieldsAndFlags : Prop :=
  ∀ s : State, csClean s →
    ∃ v env, exec .csRead s =
        .next { s with host := withRdata s.host v, book := recorded s.book [csReadEv v], env := env } ∧
      sameInputs env s.env ∧
      v &&& rwBits = s.bank.cs ∧ v.getLsbD 4 = false ∧ v.getLsbD 5 = false ∧
      v.getLsbD 16 = (s.bank.cs.getLsbD 7 && decide (s.eng.txq.length = 0) && !s.eng.busy) ∧
      v.getLsbD 17 = decide (s.eng.rxq.length > 0) ∧
      v.getLsbD 18 = decide (s.eng.txq.length < s.cfg.fifoDepth) ∧
      v.getLsbD 19 = (s.bank.cs.getLsbD 7 && decide (s.eng.rxq.length ≥ s.cfg.rxrThreshold)) ∧
      v.getLsbD 20 = decide (s.eng.rxq.length = s.cfg.fifoDepth)

/-- R141, R142, R145: where neither fault condition holds, CS_WRITE completes: every RW field takes its bit of
WDATA, CLEAR_TX and CLEAR_RX empty their FIFOs, the rest of WDATA is ignored, and nothing else changes. -/
def Obligations.CsWriteStoresFieldsAndClears : Prop :=
  ∀ (s : State) (w : Word),
    ¬ (s.bank.cs.getLsbD 7 = true ∧ w.getLsbD 7 = true ∧ w &&& cfgBits ≠ s.bank.cs &&& cfgBits) →
    ¬ (midByte s ∧ w.getLsbD 7 = false) →
    exec (.csWrite w) s =
      .next { s with
        bank.cs := w &&& rwBits
        eng.txq := if w.getLsbD 4 then [] else s.eng.txq
        eng.rxq := if w.getLsbD 5 then [] else s.eng.rxq
        book := recorded s.book [csWriteEv w] }

/-- R143, R144, R331: a configuration change while TA stays 1 is F5; else clearing TA mid-byte is F6. Each records
the stored CS and WDATA. -/
def Obligations.CsWriteFaultsInOrder : Prop :=
  ∀ (s : State) (w : Word), s.bank.cs.getLsbD 7 = true →
    (w.getLsbD 7 = true → w &&& cfgBits ≠ s.bank.cs &&& cfgBits →
      exec (.csWrite w) s = .fault (.configActive s.bank.cs w)) ∧
    (w.getLsbD 7 = false → s.eng.busy = true → exec (.csWrite w) s = .fault (.taMidbyte s.bank.cs w))

/-- R86: a CS read followed by a write of the value read, OR-ed with bits that are RW and no configuration field
(or TA = 0), sets exactly those bits: the flags, the CLEAR bits and the reserved bits written back change nothing. -/
def Obligations.ReadModifyWriteSetsExactlyItsBits : Prop :=
  ∀ (s : State) (m : Word), csClean s → m &&& ~~~rwBits = 0#32 →
    (s.bank.cs.getLsbD 7 = false ∨ m &&& cfgBits = 0#32) →
    ∃ t v env, exec .csRead s = .next t ∧ t.host.rdata = v ∧
      exec (.csWrite (v ||| m)) t =
        .next { s with
          bank.cs := s.bank.cs ||| m
          host := withRdata s.host v
          book := recorded s.book [csReadEv v, csWriteEv (v ||| m)]
          env := env }

/-- R150: in standard mode with TA = 1 and room, FIFO_WRITE appends WDATA[7:0] to the TX FIFO, ignores the rest of
WDATA and changes nothing else. -/
def Obligations.FifoWritePushesTheLowByte : Prop :=
  ∀ (s : State) (w : Word), standardMode s → s.bank.cs.getLsbD 7 = true →
    s.eng.txq.length ≠ s.cfg.fifoDepth →
    exec (.fifoWrite w) s =
      .next { s with
        eng.txq := s.eng.txq ++ [w.extractLsb' 0 8]
        book := recorded s.book [.bus .fifoWrite 0x04#8 w] }

/-- R154: in standard mode with TA = 1, FIFO_READ completes: it removes the oldest byte of the RX FIFO and answers it
in RDATA[7:0], or removes nothing from an empty one, whose RDATA is free; nothing else changes. -/
def Obligations.FifoReadPopsTheOldestByte : Prop :=
  ∀ s : State, standardMode s → s.bank.cs.getLsbD 7 = true →
    ∃ v env, sameInputs env s.env ∧
      exec .fifoRead s =
        .next { s with
          eng.rxq := s.eng.rxq.tail
          host := withRdata s.host v
          book := recorded s.book [.bus .fifoRead 0x04#8 v]
          env := env } ∧
      (∀ b q, s.eng.rxq = b :: q → v.extractLsb' 0 8 = b)

/-- R150, R154, R331: the order in which the FIFO accesses stop: X1, F3, X2, X3, and F4 for a write. The recorded
word is the command word. -/
def Obligations.FifoAccessesStopInOrder : Prop :=
  ∀ (s : State) (w : Word),
    (s.bank.cs.getLsbD 8 = true →
      exec (.fifoWrite w) s = .refused .dmaMode ∧ exec .fifoRead s = .refused .dmaMode) ∧
    (s.bank.cs.getLsbD 8 = false → s.bank.cs.getLsbD 7 = false →
      exec (.fifoWrite w) s = .fault (.fifoInactive 0x0504#16) ∧
      exec .fifoRead s = .fault (.fifoInactive 0x0404#16)) ∧
    (s.bank.cs.getLsbD 8 = false → s.bank.cs.getLsbD 7 = true → s.bank.cs.getLsbD 13 = true →
      exec (.fifoWrite w) s = .refused .lossiMode ∧ exec .fifoRead s = .refused .lossiMode) ∧
    (s.bank.cs.getLsbD 8 = false → s.bank.cs.getLsbD 7 = true → s.bank.cs.getLsbD 13 = false →
      s.bank.cs.getLsbD 12 = true →
      exec (.fifoWrite w) s = .refused .bidirMode ∧ exec .fifoRead s = .refused .bidirMode) ∧
    (standardMode s → s.bank.cs.getLsbD 7 = true → s.eng.txq.length = s.cfg.fifoDepth →
      exec (.fifoWrite w) s = .fault (.txOverflow 0x0504#16 w))

/-- R161, R163, R165, R167: the writes of CLK, DLEN, LTOH and DC complete in every state, store their field and
change nothing else. -/
def Obligations.PlainRegisterWritesStoreTheirField : Prop :=
  ∀ (s : State) (w : Word),
    exec (.clkWrite w) s =
      .next { s with bank.cdiv := w.extractLsb' 0 16, book := recorded s.book [.bus .clkWrite 0x08#8 w] } ∧
    exec (.dlenWrite w) s =
      .next { s with bank.dlen := w.extractLsb' 0 16, book := recorded s.book [.bus .dlenWrite 0x0C#8 w] } ∧
    exec (.ltohWrite w) s =
      .next { s with bank.toh := w.extractLsb' 0 4, book := recorded s.book [.bus .ltohWrite 0x10#8 w] } ∧
    exec (.dcWrite w) s =
      .next { s with bank.dc := w, book := recorded s.book [.bus .dcWrite 0x14#8 w] }

/-- R160, R162, R164, R166: the reads of CLK, DLEN, LTOH and DC complete in every state and answer the stored field
under free bits; they change nothing but RDATA, the history and the draws. -/
def Obligations.PlainRegisterReadsReturnTheirField : Prop :=
  ∀ s : State,
    (∃ v env, exec .clkRead s =
        .next { s with host := withRdata s.host v, book := recorded s.book [.bus .clkRead 0x08#8 v], env := env } ∧
      sameInputs env s.env ∧ v.extractLsb' 0 16 = s.bank.cdiv) ∧
    (∃ v env, exec .dlenRead s =
        .next { s with host := withRdata s.host v, book := recorded s.book [.bus .dlenRead 0x0C#8 v], env := env } ∧
      sameInputs env s.env ∧ v.extractLsb' 0 16 = s.bank.dlen) ∧
    (∃ v env, exec .ltohRead s =
        .next { s with host := withRdata s.host v, book := recorded s.book [.bus .ltohRead 0x10#8 v], env := env } ∧
      sameInputs env s.env ∧ v.extractLsb' 0 4 = s.bank.toh) ∧
    exec .dcRead s =
      .next { s with
        host := withRdata s.host s.bank.dc
        book := recorded s.book [.bus .dcRead 0x14#8 s.bank.dc] }

/-- R210, R211, R33, R343: a CS_READ leaves IRQ as it was. A FIFO_WRITE that completes makes DONE 0 and leaves RXR, so
IRQ is then INTR ∧ RXR. A CS_WRITE that clears TA, or both INTD and INTR, makes IRQ 0. A FIFO_READ that leaves fewer
bytes than the threshold makes RXR 0, so IRQ is then INTD ∧ DONE. And only these make it fall: a step of any agent after
which IRQ is 0 where it was 1 makes one transaction, a FIFO_WRITE, a CS_WRITE that clears TA, INTD or INTR or has
CLEAR_RX (which R142 lets empty the RX FIFO, so RXR falls; R211 does not name it), or a FIFO_READ that leaves fewer
bytes than the threshold. -/
def Obligations.IrqFallsOnlyByStateChange : Prop :=
  (∀ s t : State, exec .csRead s = .next t → t.irq = s.irq) ∧
  (∀ (s t : State) (w : Word), exec (.fifoWrite w) s = .next t →
    t.done = false ∧ t.rxr = s.rxr ∧ t.irq = (s.bank.cs.getLsbD 10 && s.rxr)) ∧
  (∀ (s t : State) (w : Word), exec (.csWrite w) s = .next t → w.getLsbD 7 = false → t.irq = false) ∧
  (∀ (s t : State) (w : Word), exec (.csWrite w) s = .next t → w.getLsbD 9 = false → w.getLsbD 10 = false →
    t.irq = false) ∧
  (∀ s t : State, exec .fifoRead s = .next t → t.eng.rxq.length < s.cfg.rxrThreshold →
    t.rxr = false ∧ t.irq = (s.bank.cs.getLsbD 9 && s.done)) ∧
  (∀ s t : State, step s = .next t → s.irq = true → t.irq = false →
    ∃ e, t.book.events = s.book.events ++ [e] ∧
      ((∃ w, e = .bus .fifoWrite 0x04#8 w) ∨
       (∃ w, e = csWriteEv w ∧ (w.getLsbD 7 = false ∨ (s.bank.cs.getLsbD 9 = true ∧ w.getLsbD 9 = false) ∨
         (s.bank.cs.getLsbD 10 = true ∧ w.getLsbD 10 = false) ∨ w.getLsbD 5 = true)) ∨
       (∃ v, e = .bus .fifoRead 0x04#8 v ∧ t.eng.rxq.length < s.cfg.rxrThreshold)))

/-! ## The engine -/

/-- R190, R191, R192, R207: LOAD takes the oldest byte of the TX FIFO into the shift register; with CPHA = 0 its first
bit is on MOSI. EDGE, the e-th of a byte (bit j = e div 2, leading when e is even), drives SCLK to CPOL on a trailing
edge and to its complement on a leading one. It samples on the leading edge with CPHA = 0 and on the trailing with
CPHA = 1: one bit m from the SLAVE goes to bit 7 − j of the received byte, m being MOSI's level for the loopback and the
byte's bit for the constant SLAVE. The other edges drive MOSI: with CPHA = 1 to bit 7 − j of the byte sent, with
CPHA = 0 to bit 7 − (j + 1), the last edge leaving it. While the byte is in flight the lines show these levels. Nothing
else changes. -/
def Obligations.EngineLoadAndEdgeDriveTheLines : Prop :=
  ∀ s : State, standardMode s → s.bank.cs.getLsbD 7 = true →
    (∀ (b : Byte) (q : List Byte), s.eng.busy = false → s.eng.txq = b :: q →
      (s.cfg.rxFullPolicy = .drop ∨ s.eng.rxq.length < s.cfg.fifoDepth) →
      ∃ t env, engineStep s = .next t ∧ sameInputs env s.env ∧
        t = { s with
          eng := { s.eng with txq := q, shTx := b, shRx := 0#8, busy := true, edge := 0,
                              sclk := s.bank.cs.getLsbD 3, mosi := t.eng.mosi }
          env := env } ∧
        (s.bank.cs.getLsbD 2 = false → t.eng.mosi = b.getLsbD 7 ∧ env = s.env)) ∧
    (s.eng.busy = true → s.eng.edge < 16 →
      let j := s.eng.edge / 2
      let leading := decide (s.eng.edge % 2 = 0)
      let samples := leading != s.bank.cs.getLsbD 2
      ∃ t env m, engineStep s = .next t ∧ sameInputs env s.env ∧
        t = { s with
          eng := { s.eng with
                    edge := s.eng.edge + 1
                    sclk := s.bank.cs.getLsbD 3 != leading
                    mosi := if samples then s.eng.mosi
                      else if s.bank.cs.getLsbD 2 then s.eng.shTx.getLsbD (7 - j)
                      else if j < 7 then s.eng.shTx.getLsbD (7 - (j + 1)) else s.eng.mosi
                    shRx := t.eng.shRx }
          env := env } ∧
        (∀ i, i < 8 → t.eng.shRx.getLsbD i = if samples = true ∧ i = 7 - j then m else s.eng.shRx.getLsbD i) ∧
        (s.env.slave = .loopback → m = s.eng.mosi) ∧
        (∀ c, s.env.slave = .constant c → m = c.getLsbD (7 - j)) ∧
        t.sclkLevel = t.eng.sclk ∧ t.mosiLevel = t.eng.mosi)

/-- R181: with TA = 1 and an engine step whose own conditions hold, DMAEN, LEN, REN in this order refuse it; with
TA = 0 the ENGINE has no enabled step. -/
def Obligations.EngineModeGuardRefuses : Prop :=
  ∀ s : State,
    (s.bank.cs.getLsbD 7 = false → s.engineEnabled = false) ∧
    (s.engineEnabled = true →
      (s.bank.cs.getLsbD 8 = true → engineStep s = .refused .dmaMode) ∧
      (s.bank.cs.getLsbD 8 = false → s.bank.cs.getLsbD 13 = true → engineStep s = .refused .lossiMode) ∧
      (s.bank.cs.getLsbD 8 = false → s.bank.cs.getLsbD 13 = false → s.bank.cs.getLsbD 12 = true →
        engineStep s = .refused .bidirMode) ∧
      (standardMode s → ∃ t, engineStep s = .next t))

/-- R190, R191, R193 with the loopback SLAVE of R192: from an idle shift register, LOAD, 16 EDGEs and STORE, in any
of the four clock modes, append to the RX FIFO the very byte they take from the TX FIFO, and record it with the chip
select and the mode {CPOL, CPHA}. CS, CLK, LTOH, DC, the sequencer and host memory are unchanged; DLEN keeps its
value or is reset to 0. -/
def Obligations.LoopbackByteComesBack : Prop :=
  ∀ (s : State) (b : Byte) (q : List Byte), standardMode s → s.bank.cs.getLsbD 7 = true → s.eng.busy = false →
    s.env.slave = .loopback → s.eng.txq = b :: q → s.eng.rxq.length < s.cfg.fifoDepth →
    ∃ t, engineByte s = .next t ∧
      t.eng.txq = q ∧ t.eng.rxq = s.eng.rxq ++ [b] ∧ t.eng.busy = false ∧ t.eng.edge = 0 ∧
      t.book = recorded s.book [.byte (s.bank.cs.extractLsb' 0 2) (s.bank.cs.extractLsb' 2 2) b b] ∧
      t.bank = { s.bank with dlen := t.bank.dlen } ∧ (t.bank.dlen = s.bank.dlen ∨ t.bank.dlen = 0#16) ∧
      t.seq = s.seq ∧ t.mem = s.mem ∧ t.host = s.host ∧ t.cfg = s.cfg ∧ sameInputs t.env s.env

/-- R217, R194, R196, R192: whatever the SLAVE answers, one byte taken from the TX FIFO brings exactly one byte to the
RX FIFO when there is room, and the byte sent is the one recorded. On a full RX FIFO the stall policy takes no byte: the
ENGINE has no step. The drop policy takes it, records it, and loses what was received: the RX FIFO is unchanged. -/
def Obligations.OneByteReceivedPerByteSent : Prop :=
  ∀ (s : State) (b : Byte) (q : List Byte), standardMode s → s.bank.cs.getLsbD 7 = true → s.eng.busy = false →
    s.eng.txq = b :: q →
    (s.eng.rxq.length < s.cfg.fifoDepth →
      ∃ t m, engineByte s = .next t ∧
        t.eng.txq = q ∧ t.eng.rxq = s.eng.rxq ++ [m] ∧ t.eng.busy = false ∧
        t.book = recorded s.book [.byte (s.bank.cs.extractLsb' 0 2) (s.bank.cs.extractLsb' 2 2) b m] ∧
        (∀ c, s.env.slave = .constant c → m = c)) ∧
    (s.cfg.fifoDepth ≤ s.eng.rxq.length → s.cfg.rxFullPolicy = .stall → s.engineEnabled = false) ∧
    (s.cfg.fifoDepth ≤ s.eng.rxq.length → s.cfg.rxFullPolicy = .drop →
      ∃ t m, engineByte s = .next t ∧
        t.eng.txq = q ∧ t.eng.rxq = s.eng.rxq ∧ t.eng.busy = false ∧
        t.book = recorded s.book [.byte (s.bank.cs.extractLsb' 0 2) (s.bank.cs.extractLsb' 2 2) b m] ∧
        (∀ c, s.env.slave = .constant c → m = c))

/-- R219: an ENGINE step writes only txq (where LOAD is enabled), rxq (where STORE is the step), the shift register and
lines, the history, and DLEN, which it keeps or sets to 0. It never writes CS, so never TA, nor CLK, LTOH, DC, a
device, host memory or the program. -/
def Obligations.EngineWritesOnlyItsOwnState : Prop :=
  ∀ s t : State, engineStep s = .next t →
    t.bank = { s.bank with dlen := t.bank.dlen } ∧ (t.bank.dlen = s.bank.dlen ∨ t.bank.dlen = 0#16) ∧
    t.cfg = s.cfg ∧ t.seq = s.seq ∧ t.mem = s.mem ∧ t.host = s.host ∧
    t.book.faults = s.book.faults ∧ t.book.refused = s.book.refused ∧ sameInputs t.env s.env ∧
    (t.eng.txq = s.eng.txq ∨ s.loadEnabled = true) ∧
    (t.eng.rxq = s.eng.rxq ∨ (s.loadEnabled = false ∧ s.edgeEnabled = false)) ∧
    (t.book.events = s.book.events ∨ ∃ l m a b, t.book.events = s.book.events ++ [.byte l m a b])

/-- R205, R207: a chip-select line whose own polarity CSPOLn is CSPOL (line 3 has none) is inactive while TA = 0, and
while TA = 1 with CS.CS in 0..2 it has the level CSPOL exactly when it is the selected one, whatever the other lines'
polarities are. With no byte in flight SCLK is CPOL. -/
def Obligations.ChipSelectLinesFollowCs : Prop :=
  ∀ (s : State) (n : Fin 4),
    ((n.val < 3 → s.bank.cs.getLsbD (21 + n.val) = s.bank.cs.getLsbD 6) →
      (s.bank.cs.getLsbD 7 = false → s.csLine n = !s.bank.cs.getLsbD 6) ∧
      (s.bank.cs.getLsbD 7 = true → (s.bank.cs.extractLsb' 0 2).toNat < 3 →
        s.csLine n = (if n.val = (s.bank.cs.extractLsb' 0 2).toNat then s.bank.cs.getLsbD 6
          else !s.bank.cs.getLsbD 6))) ∧
    (s.eng.busy = false → s.sclkLevel = s.bank.cs.getLsbD 3)

/-! ## INITIALIZE -/

/-- R230, R231, R232: INITIALIZE records PINS first. With no byte in flight it then writes CS, CLK and DLEN in this
order and returns SUCCESS: CS stored 0, both FIFOs empty, CLK and DLEN at the configured values, and every other
piece of state as it was. With a byte in flight its CS write raises F6. -/
def Obligations.InitializeReachesTheQuiescentState : Prop :=
  ∀ s : State, idle s →
    ∃ t, exec .init s = .next t ∧
      t = { s with seq := { s.seq with thread := [.initF .writeCs] }, book := recorded s.book [.pins] } ∧
      (midByte s → hostRun 1 t = .fault (.taMidbyte s.bank.cs 0x00000030#32)) ∧
      (¬ midByte s → hostRun 3 t =
        .next { s with
          bank := { s.bank with cs := 0#32, cdiv := s.cfg.cfgClockDivisor, dlen := s.cfg.errataDlen }
          eng.txq := []
          eng.rxq := []
          host := ended s.host .success
          book := recorded s.book
            [.pins, csWriteEv 0x00000030#32, .bus .clkWrite 0x08#8 (s.cfg.cfgClockDivisor.setWidth 32),
             .bus .dlenWrite 0x0C#8 (s.cfg.errataDlen.setWidth 32)] })

/-! ## SELECT -/

/-- R241, R321: SELECT with a chip select outside 0..3 completes at once with InvalidArgument and changes nothing
else: no bus transaction, no event. -/
def Obligations.SelectRejectsInvalidChipSelect : Prop :=
  ∀ (s : State) (d : Nat) (D : LogicalDevice) (c : Word), idle s → s.dev? d = some D →
    ¬ (0 ≤ c.toInt ∧ c.toInt ≤ 3) →
    exec (.select d c) s = .next { s with host := ended s.host .invalidArgument }

/-- R240, R242, R244, R245: SELECT of a device that requests no interrupt, the line not attached, with no fault
condition (TA = 0, or CPHA, CPOL, mode and chip select already as they will be), completes: CPHA and CPOL follow the
mode, CS.CS the index, CLK the divisor when it is not 0; every other field and the FIFOs are unchanged. -/
def Obligations.SelectConfiguresAPlainDevice : Prop :=
  ∀ (s : State) (d : Nat) (D : LogicalDevice) (c : Word), idle s → csClean s → s.dev? d = some D →
    0 ≤ c.toInt → c.toInt ≤ 3 → D.irqDone = false → D.irqRecv = false → s.seq.irqAttached = false →
    selectQuiet s D c →
    ∃ t u, exec (.select d c) s = .next t ∧
      hostRun (if D.divisor = 0#16 then 5 else 6) t = .next u ∧
      u.bank = { s.bank with
        cs := configuredCs s.bank.cs D.mode (c.extractLsb' 0 2)
        cdiv := if D.divisor = 0#16 then s.bank.cdiv else D.divisor } ∧
      u.eng = s.eng ∧ u.seq = s.seq ∧ u.mem = s.mem ∧ u.cfg = s.cfg ∧ sameInputs u.env s.env ∧
      u.host = withRdata (ended s.host .success) u.host.rdata

/-- R240, R143, R332: SELECT while TA = 1, whether or not the device requests interrupts and whatever the line's attachment
(an attach, where one is asked for, succeeding), raises F5 by the first of its three writes that would change a
configuration field, the mode clear, the mode set or the chip select: all its steps before that write complete, the
divisor's write among them, and the fault records the stored CS, with the enables it has added, and a WDATA whose stored
fields are those it would have left. -/
def Obligations.SelectWhileActiveFaults : Prop :=
  ∀ (s : State) (d : Nat) (D : LogicalDevice) (c : Word), idle s → csClean s → s.dev? d = some D →
    0 ≤ c.toInt → c.toInt ≤ 3 → s.bank.cs.getLsbD 7 = true →
    let wants := D.irqDone || D.irqRecv
    let on := s.bank.cs.getLsbD 9 || s.bank.cs.getLsbD 10
    let k := if wants then (if on then 3 else 4) else if s.seq.irqAttached then 1 else 0
    let cs := s.bank.cs ||| (if D.irqDone then 0x200#32 else 0#32) ||| (if D.irqRecv then 0x400#32 else 0#32)
    ∃ t, exec (.select d c) s = .next t ∧
      (wants = false ∨ on = true ∨ t.attachOk = true →
        (s.bank.cs.extractLsb' 2 2 ≠ 0#2 →
          ∃ u w, hostRun k t = .next u ∧ hostStep u = .fault (.configActive cs w) ∧
            w &&& rwBits = cs &&& ~~~0x0000000C#32) ∧
        (s.bank.cs.extractLsb' 2 2 = 0#2 → D.mode ≠ 0#2 →
          ∃ u w, hostRun (k + 2) t = .next u ∧ hostStep u = .fault (.configActive cs w) ∧
            w &&& rwBits = cs ||| (D.mode.setWidth 32 <<< 2)) ∧
        (s.bank.cs.extractLsb' 2 2 = 0#2 → D.mode = 0#2 → s.bank.cs.extractLsb' 0 2 ≠ c.extractLsb' 0 2 →
          ∃ u w, hostRun (k + (if D.divisor = 0#16 then 4 else 5)) t = .next u ∧
            u.bank.cdiv = (if D.divisor = 0#16 then s.bank.cdiv else D.divisor) ∧
            hostStep u = .fault (.configActive cs w) ∧
            w &&& rwBits = (cs &&& ~~~0x00000003#32) ||| (c.extractLsb' 0 2).setWidth 32))

/-- R243, R248: SELECT of a device that requests no interrupt while the line is attached detaches it as its first
step, with its event, and leaves INTD and INTR, and every register, as they are; then, with no fault condition to meet,
it sets mode, divisor and chip select as for any device. -/
def Obligations.SelectDetachesForAPlainDevice : Prop :=
  ∀ (s : State) (d : Nat) (D : LogicalDevice) (c : Word), idle s → s.dev? d = some D →
    0 ≤ c.toInt → c.toInt ≤ 3 → D.irqDone = false → D.irqRecv = false → s.seq.irqAttached = true →
    ∃ t, exec (.select d c) s = .next t ∧
      t = { s with
        seq := { s.seq with
          irqAttached := false
          irqCtx := none
          thread := [.selectF d (c.extractLsb' 0 2) .modeRead] }
        book := recorded s.book [.detach s.cfg.irqLine] } ∧
      (csClean s → selectQuiet s D c →
        ∃ u, hostRun (if D.divisor = 0#16 then 6 else 7) t = .next u ∧
          u.bank = { s.bank with
            cs := configuredCs s.bank.cs D.mode (c.extractLsb' 0 2)
            cdiv := if D.divisor = 0#16 then s.bank.cdiv else D.divisor } ∧
          u.eng = s.eng ∧ u.seq = { s.seq with irqAttached := false, irqCtx := none } ∧ u.mem = s.mem ∧
          u.cfg = s.cfg ∧ u.host = withRdata (ended s.host .success) u.host.rdata)

/-- R240, R243, R246: SELECT of an interrupt device when neither INTD nor INTR is set asks the collaborator to
attach. When it refuses, SELECT ends with IrqAttachFailure after one CS read and no write, the registers and the
attachment as they were. When it agrees, the line is attached with context d, INTD and INTR are set as the device
requests, and SELECT goes on (with no fault condition to meet) to SUCCESS with mode, divisor and chip select as for any
device. -/
def Obligations.SelectAttachesOrReportsFailure : Prop :=
  ∀ (s : State) (d : Nat) (D : LogicalDevice) (c : Word), idle s → csClean s → s.dev? d = some D →
    0 ≤ c.toInt → c.toInt ≤ 3 → (D.irqDone = true ∨ D.irqRecv = true) →
    s.bank.cs.getLsbD 9 = false → s.bank.cs.getLsbD 10 = false →
    ∃ t, exec (.select d c) s = .next t ∧
      (t.attachOk = false →
        ∃ v u, hostRun 1 t = .next u ∧ u.bank = s.bank ∧ u.eng = s.eng ∧ u.seq = s.seq ∧ u.mem = s.mem ∧
          u.cfg = s.cfg ∧ u.book = recorded s.book [csReadEv v] ∧
          u.host = withRdata (ended s.host .irqAttachFailure) v) ∧
      (t.attachOk = true → selectQuiet s D c →
        ∃ u, hostRun (if D.divisor = 0#16 then 9 else 10) t = .next u ∧
          u.bank = { s.bank with
            cs := configuredCs (s.bank.cs ||| (if D.irqDone then 0x200#32 else 0#32) |||
              (if D.irqRecv then 0x400#32 else 0#32)) D.mode (c.extractLsb' 0 2)
            cdiv := if D.divisor = 0#16 then s.bank.cdiv else D.divisor } ∧
          u.seq = { s.seq with irqAttached := true, irqCtx := some d } ∧ u.eng = s.eng ∧ u.mem = s.mem ∧
          u.cfg = s.cfg ∧ u.host = withRdata (ended s.host .success) u.host.rdata ∧
          Event.attach s.cfg.irqLine d ∈ u.book.events)

/-- R243, R248 case 1: when INTD or INTR is already set, SELECT of an interrupt device does not attach: irq_ctx keeps
naming the device it named, the requested enables are added and none is cleared. -/
def Obligations.SelectKeepsTheAttachedContext : Prop :=
  ∀ (s : State) (d : Nat) (D : LogicalDevice) (c : Word), idle s → csClean s → s.dev? d = some D →
    0 ≤ c.toInt → c.toInt ≤ 3 → (D.irqDone = true ∨ D.irqRecv = true) →
    (s.bank.cs.getLsbD 9 = true ∨ s.bank.cs.getLsbD 10 = true) → selectQuiet s D c →
    ∃ t u, exec (.select d c) s = .next t ∧
      hostRun (if D.divisor = 0#16 then 8 else 9) t = .next u ∧
      u.bank = { s.bank with
        cs := configuredCs (s.bank.cs ||| (if D.irqDone then 0x200#32 else 0#32) |||
          (if D.irqRecv then 0x400#32 else 0#32)) D.mode (c.extractLsb' 0 2)
        cdiv := if D.divisor = 0#16 then s.bank.cdiv else D.divisor } ∧
      u.seq = s.seq ∧ u.eng = s.eng ∧ u.mem = s.mem ∧ u.cfg = s.cfg ∧
      u.host = withRdata (ended s.host .success) u.host.rdata

/-- R114, R116, R330: a device index outside 0..P_NUM_DEVICES−1 raises F8 with the command word. -/
def Obligations.DeviceIndexOutOfRangeFaults : Prop :=
  ∀ (s : State) (d : Nat) (src dst : Option Nat) (c n r : Word), s.seq.devs.length ≤ d →
    exec (.select d c) s = .fault (.illegalOp 0x8002#16) ∧
    exec (.transfer d src dst n) s = .fault (.illegalOp 0x8003#16) ∧
    exec (.pump d src dst n r) s = .fault (.illegalOp 0x8004#16)

/-! ## TRANSFER -/

/-- R261, R322: with DMAEN = 1 TRANSFER, whatever its count and buffers, makes one CS read, records the LOG event and
returns Unsupported; nothing else changes. -/
def Obligations.TransferWithDmaEnabledIsUnsupported : Prop :=
  ∀ (s : State) (d : Nat) (D : LogicalDevice) (src dst : Option Nat) (n : Word), idle s → csClean s →
    s.dev? d = some D → s.bank.cs.getLsbD 8 = true →
    ∃ t v env, exec (.transfer d src dst n) s = .next t ∧ sameInputs env s.env ∧
      hostRun 1 t =
        .next { s with
          host := withRdata (ended s.host .unsupported) v
          book := recorded s.book [csReadEv v, .log "DMA unsupported"]
          env := env }

/-- R262: count = −2^31 makes one CS read and returns InvalidArgument with no further effect. -/
def Obligations.TransferRejectsTheMinimumCount : Prop :=
  ∀ (s : State) (d : Nat) (D : LogicalDevice) (src dst : Option Nat) (n : Word), idle s → csClean s →
    s.dev? d = some D → s.bank.cs.getLsbD 8 = false → n.toInt = -2147483648 →
    ∃ v env, sameInputs env s.env ∧
      exec (.transfer d src dst n) s =
        .next { s with
          host := withRdata (ended s.host .invalidArgument) v
          book := recorded s.book [csReadEv v]
          env := env }

/-- R265, R291: a negative count arms: the buffers and |count| on the device, then the errata value in DLEN, then
both FIFOs cleared, then TA set, and SUCCESS; no byte moves, and no other field of CS and no other device changes. -/
def Obligations.NegativeCountArmsTheDevice : Prop :=
  ∀ (s : State) (d : Nat) (D : LogicalDevice) (src dst : Option Nat) (n : Word), idle s → csClean s →
    s.dev? d = some D → s.bank.cs.getLsbD 8 = false → n.toInt < 0 → n.toInt ≠ -2147483648 →
    ∃ t u v1 v2 v3, exec (.transfer d src dst n) s = .next t ∧ hostRun 8 t = .next u ∧
      u.bank = { s.bank with cs := s.bank.cs ||| 0x80#32, dlen := s.cfg.errataDlen } ∧
      u.eng = { s.eng with txq := [], rxq := [] } ∧
      u.seq = { s.seq with
        devs := s.seq.devs.set d { D with src := src, dst := dst, remaining := -n.toInt } } ∧
      u.mem = s.mem ∧ u.cfg = s.cfg ∧ sameInputs u.env s.env ∧
      u.host = withRdata (ended s.host .success) v3 ∧
      u.book = recorded s.book
        [csReadEv v1, .bus .dlenWrite 0x0C#8 (s.cfg.errataDlen.setWidth 32),
         csReadEv v2, csWriteEv (v2 ||| 0x30#32), csReadEv v3, csWriteEv (v3 ||| 0x80#32)]

/-- R267, R263: a non-negative count on a device that requests no interrupt sets TA by its own read-modify-write, then
clears both FIFOs by another, then masks the host's interrupts, and stands at its PUMP with tx_count = rx_count = count,
nothing else changed; issuing that PUMP completes its first step, which applies the errata value. -/
def Obligations.PolledTransferReachesItsPump : Prop :=
  ∀ (s : State) (d : Nat) (D : LogicalDevice) (src dst : Option Nat) (n : Word), idle s → csClean s →
    s.dev? d = some D → s.bank.cs.getLsbD 8 = false → 0 ≤ n.toInt → D.irqDone = false → D.irqRecv = false →
    ∃ t u p v1 v2 v3 env, exec (.transfer d src dst n) s = .next t ∧ hostRun 5 t = .next u ∧ sameInputs env s.env ∧
      u = { s with
        bank.cs := s.bank.cs ||| 0x80#32
        eng := { s.eng with txq := [], rxq := [] }
        seq := { s.seq with ie := false, thread := [.transferF d src dst n (.polledPump s.seq.ie)] }
        host := withRdata s.host v3
        book := recorded s.book
          [csReadEv v1, csReadEv v2, csWriteEv (v2 ||| 0x80#32), csReadEv v3, csWriteEv (v3 ||| 0x30#32)]
        env := env } ∧
      exec (.pump d src dst n n) u = .next p ∧ hostStep u = .next p ∧
      p.bank = { u.bank with dlen := s.cfg.errataDlen } ∧ p.eng = u.eng ∧ p.mem = u.mem ∧
      p.book = recorded u.book [.bus .dlenWrite 0x0C#8 (s.cfg.errataDlen.setWidth 32)]

/-- R267, R263, R268: after its PUMP has returned, with no byte in flight, the polled TRANSFER restores the interrupt mask
it saved, then clears TA with a read-modify-write, and returns SUCCESS; nothing else changes. -/
def Obligations.PolledTransferEndsWithTaCleared : Prop :=
  ∀ (s : State) (d : Nat) (src dst : Option Nat) (n : Word) (saved : Bool), csClean s → ¬ midByte s →
    s.seq.ctx = .thread → s.seq.thread = [.transferF d src dst n (.leaveCritical saved false)] →
    ∃ v env, hostRun 3 s =
      .next { s with
        bank.cs := s.bank.cs &&& ~~~0x80#32
        seq := { s.seq with ie := saved, thread := [] }
        host := withRdata (ended s.host .success) v
        book := recorded s.book [csReadEv v, csWriteEv (v &&& ~~~0x80#32)]
        env := env }

/-- R269 cases 1 and 2, R252, R255, R256, R267: a polled TRANSFER of no bytes (count = 0, or both buffers none) with the
shift register idle completes with no byte moved: TA is set, the FIFOs are cleared, PUMP makes its DLEN write, one
drain read and one DONE read and returns, the interrupt mask is restored, TA is cleared, and the result is SUCCESS.
These transactions, in this order, are all it makes. -/
def Obligations.PolledTransferOfNoBytesCompletes : Prop :=
  ∀ (s : State) (d : Nat) (D : LogicalDevice) (src dst : Option Nat) (n : Word), idle s → csClean s →
    s.dev? d = some D → s.bank.cs.getLsbD 8 = false → 0 ≤ n.toInt → D.irqDone = false → D.irqRecv = false →
    (n = 0#32 ∨ (src = none ∧ dst = none)) → s.eng.busy = false →
    ∃ t v1 v2 v3 v4 v5 v6 env, exec (.transfer d src dst n) s = .next t ∧ sameInputs env s.env ∧
      hostRun 11 t =
        .next { s with
          bank := { s.bank with cs := s.bank.cs &&& ~~~0x80#32, dlen := s.cfg.errataDlen }
          eng := { s.eng with txq := [], rxq := [] }
          host := withRdata (ended s.host .success) v6
          book := recorded s.book
            [csReadEv v1, csReadEv v2, csWriteEv (v2 ||| 0x80#32), csReadEv v3, csWriteEv (v3 ||| 0x30#32),
             .bus .dlenWrite 0x0C#8 (s.cfg.errataDlen.setWidth 32), csReadEv v4, csReadEv v5,
             csReadEv v6, csWriteEv (v6 &&& ~~~0x80#32)]
          env := env }

/-- R264, R266, R282, R284: a non-negative count on a device that requests an interrupt source makes one CS read and stands at its
PUMP, with neither TA set nor the FIFOs cleared. After a PUMP that returned r, TRANSFER takes r from D.remaining,
advances the cursors that are not none by r, and returns to the handler's branch A or B that called it, which goes on
after its chunk, or to the program with SUCCESS (R269 case 3); TA and every register, the FIFOs and host memory are unchanged. -/
def Obligations.ReentrantChunkUpdatesTheDevice : Prop :=
  ∀ (s : State) (d e : Nat) (D : LogicalDevice) (src dst : Option Nat) (n : Word) (r : Nat),
    s.dev? d = some D →
    let after : LogicalDevice :=
      { D with remaining := D.remaining - r, src := D.src.map (· + r), dst := D.dst.map (· + r) }
    (idle s → csClean s → s.bank.cs.getLsbD 8 = false → 0 ≤ n.toInt → (D.irqDone = true ∨ D.irqRecv = true) →
      ∃ v env, exec (.transfer d src dst n) s =
        .next { s with
          seq := { s.seq with thread := [.transferF d src dst n .chunkPump] }
          host := withRdata s.host v
          book := recorded s.book [csReadEv v]
          env := env }) ∧
    (∀ hpos, inInt32 (D.remaining - r) = true → s.seq.ctx = .interrupt →
      s.seq.intr = [.transferF d src dst n (.chunkRemaining r), .handlerF e hpos] → atChunk hpos →
      hostRun 3 s =
        .next { s with
          seq := { s.seq with devs := s.seq.devs.set d after, intr := [.handlerF e (afterChunk hpos)] } }) ∧
    (inInt32 (D.remaining - r) = true → s.seq.ctx = .thread →
      s.seq.thread = [.transferF d src dst n (.chunkRemaining r)] →
      hostRun 3 s =
        .next { s with
          seq := { s.seq with devs := s.seq.devs.set d after, thread := [] }
          host := ended s.host .success })

/-! ## PUMP -/

/-- R114, R333: PUMP that TRANSFER does not issue, a host program's own above all, is refused with X6, and so is
IRQ_HANDLER in thread context, where programs run. PUMP that TRANSFER issues, at its call and with its operands,
completes its first step, which applies the errata value to DLEN (R250 step 1, R391), puts PUMP, with nothing sent or
received, at its loop test at the head of the context's running operations, and changes nothing else. -/
def Obligations.InternalOperationsAreRefusedToPrograms : Prop :=
  (∀ s : State, s.seq.ctx = .thread → exec .irqHandler s = .refused .internalOp) ∧
  ∀ (s : State) (d : Nat) (src dst : Option Nat) (txc rxc : Word), d < s.seq.devs.length →
    ((∀ pos l, s.stack = .transferF d src dst txc pos :: l → txc = rxc →
        (pos ≠ .chunkPump ∧ ∀ b, pos ≠ .polledPump b)) →
      exec (.pump d src dst txc rxc) s = .refused .internalOp) ∧
    (∀ pos l, s.stack = .transferF d src dst txc pos :: l → txc = rxc →
      (pos = .chunkPump ∨ ∃ b, pos = .polledPump b) →
      let q : TransferRequest := { txCount := txc.toNat, rxCount := txc.toNat, tx := 0, rx := 0 }
      exec (.pump d src dst txc rxc) s =
        .next (({ s with
          bank.dlen := s.cfg.errataDlen
          book := recorded s.book [.bus .dlenWrite 0x0C#8 (s.cfg.errataDlen.setWidth 32)] } : State).setStack
          (.pumpF d src dst q (loopTest src dst q) :: s.stack)))

/-- R250 step 2, R252, R256, with the loopback SLAVE: PUMP of n bytes with both buffers, called by a re-entrant or a
polled TRANSFER, on empty FIFOs and an idle shift register, the engine moving each byte as it comes: the output buffer
receives the n bytes of the input buffer in order, no other byte of memory changes, the FIFOs are empty again, and two
more steps return n to the TRANSFER that called. The buffers are the same (R97) or do not overlap. Memory is in its
canonical form, which the invariant holds. -/
def Obligations.PumpRoundTripsThroughLoopback : Prop :=
  ∀ (n : Nat) (s : State) (d a b : Nat) (cnt : Word) (pos : TransferPos) (l : List Frame), 0 < n → standardMode s →
    csClean s → Memory.wf s.mem = true →
    s.bank.cs.getLsbD 7 = true → s.eng.busy = false → s.eng.txq = [] → s.eng.rxq = [] → 0 < s.cfg.fifoDepth →
    s.env.slave = .loopback → (a = b ∨ a + n ≤ b ∨ b + n ≤ a) → atPump pos →
    s.stack = .pumpF d (some a) (some b) { txCount := n, rxCount := n, tx := 0, rx := 0 } (.waitTxd 0) ::
      .transferF d (some a) (some b) cnt pos :: l →
    ∃ u z, pumpRounds n s = .next u ∧
      (∀ i, i < n → u.memByte (b + i) = s.memByte (a + i)) ∧
      (∀ x, (x < b ∨ b + n ≤ x) → u.memByte x = s.memByte x) ∧
      u.eng.txq = [] ∧ u.eng.rxq = [] ∧ u.eng.busy = false ∧ u.bank.cs = s.bank.cs ∧
      hostRun 2 u = .next z ∧ z.mem = u.mem ∧ z.bank = u.bank ∧ z.eng = u.eng ∧
      z.seq = (s.setStack (.transferF d (some a) (some b) cnt (pumpReturn n pos) :: l)).seq

/-- R250 step 2, R251, R95, in standard mode with TA = 1: a push appends the next input byte (room given), a filler
push appends 0x00 without a wait, each counting one byte sent; a pop takes the oldest received byte, which then goes to
the next byte of the output buffer and counts as received. Each stands where R251's loop body goes on, and changes
nothing else. -/
def Obligations.PumpLoopBodyMovesOneByteEachWay : Prop :=
  ∀ (s : State) (d : Nat) (src dst : Option Nat) (q : TransferRequest) (l : List Frame), standardMode s →
    s.bank.cs.getLsbD 7 = true →
    (∀ a, src = some a → s.stack = .pumpF d src dst q .push :: l → s.eng.txq.length ≠ s.cfg.fifoDepth →
      hostStep s = .next (({ s with
        eng.txq := s.eng.txq ++ [s.memByte (a + q.tx)]
        book := recorded s.book [.bus .fifoWrite 0x04#8 ((s.memByte (a + q.tx)).setWidth 32)] } : State).setStack
        (.pumpF d src dst { q with tx := q.tx + 1 } (afterTx src dst { q with tx := q.tx + 1 }) :: l))) ∧
    (s.stack = .pumpF d src dst q .pushFiller :: l → s.eng.txq.length ≠ s.cfg.fifoDepth →
      hostStep s = .next (({ s with
        eng.txq := s.eng.txq ++ [0x00#8]
        book := recorded s.book [.bus .fifoWrite 0x04#8 0x00000000#32] } : State).setStack
        (.pumpF d src dst { q with tx := q.tx + 1 } (afterTx src dst { q with tx := q.tx + 1 }) :: l))) ∧
    (∀ b rest, s.eng.rxq = b :: rest → s.stack = .pumpF d src dst q .pop :: l →
      ∃ v env, hostStep s = .next (({ s with
        eng.rxq := rest
        host := withRdata s.host v
        book := recorded s.book [.bus .fifoRead 0x04#8 v]
        env := env } : State).setStack (.pumpF d src dst q (.store b) :: l))) ∧
    (∀ a b, dst = some a → s.stack = .pumpF d src dst q (.store b) :: l →
      hostStep s = .next (({ s with mem := Memory.write s.mem (a + q.rx) b } : State).setStack
        (.pumpF d src dst { q with rx := q.rx + 1 } (loopTest src dst { q with rx := q.rx + 1 }) :: l)))

/-- R250 steps 3 to 5, R254, R255, R256, in standard mode with TA = 1. At its drain with a received byte left PUMP reads
CS, pops that byte, stores it nowhere, and stands at the drain again. With the RX FIFO empty and DONE = 1 it makes one
drain read and one DONE read, and returns max(tx, rx) to the re-entrant or polled TRANSFER that called. Nothing but the
FIFO, the positions, RDATA, the history and the draws changes. -/
def Obligations.PumpDrainsAndReturnsTheLargerCount : Prop :=
  ∀ (s : State) (d : Nat) (src dst : Option Nat) (n : Word) (q : TransferRequest) (pos : TransferPos) (l : List Frame),
    csClean s → standardMode s → s.bank.cs.getLsbD 7 = true → atPump pos →
    s.stack = .pumpF d src dst q .drainRead :: .transferF d src dst n pos :: l →
    (∀ b rest, s.eng.rxq = b :: rest →
      ∃ v w env, sameInputs env s.env ∧
        hostRun 2 s =
          .next { s with
            eng.rxq := rest
            host := withRdata s.host w
            book := recorded s.book [csReadEv v, .bus .fifoRead 0x04#8 w]
            env := env }) ∧
    (s.eng.busy = false → s.eng.txq = [] → s.eng.rxq = [] →
      ∃ v w env, sameInputs env s.env ∧
        hostRun 2 s =
          .next (({ s with
            host := withRdata s.host w
            book := recorded s.book [csReadEv v, csReadEv w]
            env := env } : State).setStack (.transferF d src dst n (pumpReturn (max q.tx q.rx) pos) :: l)))

/-- R255, R258 case 4, R325: a DONE wait with TA = 0 and P_TIMEOUT = none never ends: however many steps are taken,
the machine is still at that wait, TA = 0, and registers, engine, devices and memory are as they were. -/
def Obligations.DoneWaitWithoutTaHangs : Prop :=
  ∀ (k : Nat) (s : State) (d p : Nat) (src dst : Option Nat) (q : TransferRequest) (l : List Frame),
    s.runStop = none → csClean s → s.bank.cs.getLsbD 7 = false → s.cfg.timeout = none → s.seq.ctx = .thread →
    s.seq.thread = .pumpF d src dst q (.waitDone p) :: l →
    ∃ t p', Host.Core.run Sys2Proof.core k s = .next t ∧
      t.seq = { s.seq with thread := .pumpF d src dst q (.waitDone p') :: l } ∧
      t.bank = s.bank ∧ t.eng = s.eng ∧ t.mem = s.mem ∧ t.host.pc = s.host.pc

/-- R102, R251, R325, R326, for each of PUMP's three busy-waits, TXD, RXD and DONE. An unsatisfied poll makes one CS
read and stands at the same wait, for ever under P_TIMEOUT = none, and before the k-th poll under P_TIMEOUT = k ≥ 1. The
k-th ends PUMP, and then the TRANSFER that called it, with HardwareTimeout: the polled one, once it has restored host.ie,
and the re-entrant one, whether a program issued it or IRQ_HANDLER, which ignores the result (R289) and goes on after its
chunk. TA, the FIFOs and the device records are left as they are. That the polls are counted for each wait from 0 is the
model's reading (log 22, DEDUCED). -/
def Obligations.UnsatisfiedWaitPollsAgainOrTimesOut : Prop :=
  ∀ (s : State) (p d : Nat) (src dst : Option Nat) (n : Word) (q : TransferRequest) (wait : Nat → PumpPos)
    (pos : TransferPos) (l : List Frame), csClean s → unsatisfiedWait s wait →
    atPump pos → s.stack = .pumpF d src dst q (wait p) :: .transferF d src dst n pos :: l →
    ((s.cfg.timeout = none ∨ ∃ k, s.cfg.timeout = some k ∧ p + 1 < k) →
      ∃ v env, sameInputs env s.env ∧
        hostStep s =
          .next (({ s with
            host := withRdata s.host v, book := recorded s.book [csReadEv v], env := env } : State).setStack
            (.pumpF d src dst q (wait (p + 1)) :: .transferF d src dst n pos :: l))) ∧
    (∀ k, s.cfg.timeout = some k → 1 ≤ k → k ≤ p + 1 →
      (s.seq.ctx = .thread → l = [] →
        ∃ v env, sameInputs env s.env ∧
          hostRun 2 s =
            .next { s with
              seq := { s.seq with
                ie := (match pos with | .polledPump saved => saved | _ => s.seq.ie)
                thread := [] }
              host := withRdata (ended s.host .hardwareTimeout) v
              book := recorded s.book [csReadEv v]
              env := env }) ∧
      (∀ e hpos, s.seq.ctx = .interrupt → pos = .chunkPump → l = [.handlerF e hpos] → atChunk hpos →
        ∃ v env, sameInputs env s.env ∧
          hostRun 2 s =
            .next { s with
              seq := { s.seq with intr := [.handlerF e (afterChunk hpos)] }
              host := withRdata s.host v
              book := recorded s.book [csReadEv v]
              env := env }))

/-! ## Interrupts -/

/-- R341, R344, R330: with the line attached, entry sets host.ctx ← interrupt and host.ie ← 0, keeps the thread's position
and changes nothing else, and the HOST's next step is IRQ_HANDLER; with the line not attached, delivery raises F7 with
the CS value: the stored fields and the five flags (that its CLEAR and reserved bits are 0 is log 27, not stated). -/
def Obligations.DeliveryEntersTheHandlerOrFaults : Prop :=
  ∀ s : State,
    (s.seq.irqAttached = true →
      ∃ t, deliveryStep s = .next t ∧
        t = { s with seq := { s.seq with ctx := .interrupt, ie := false, intr := [] } } ∧
        hostStep t = exec .irqHandler t) ∧
    (s.seq.irqAttached = false → csClean s →
      ∃ v, deliveryStep s = .fault (.unhandledIrq v) ∧ v &&& rwBits = s.bank.cs ∧
        v.getLsbD 16 = (s.bank.cs.getLsbD 7 && decide (s.eng.txq.length = 0) && !s.eng.busy) ∧
        v.getLsbD 17 = decide (s.eng.rxq.length > 0) ∧
        v.getLsbD 18 = decide (s.eng.txq.length < s.cfg.fifoDepth) ∧
        v.getLsbD 19 = (s.bank.cs.getLsbD 7 && decide (s.eng.rxq.length ≥ s.cfg.rxrThreshold)) ∧
        v.getLsbD 20 = decide (s.eng.rxq.length = s.cfg.fifoDepth))

/-- R341, R344, R345, R346, R210: delivery is enabled exactly when IRQ = 1 (INTD and DONE, or INTR and RXR), host.ie = 1
and the HOST is in thread context; it is an entry exactly when the line is attached as well. A step that enters the
handler was so enabled, and keeps the block's state and the thread's position. In interrupt context no delivery is
enabled, and a step stays there with host.ie = 0 or is the handler's return to thread context with host.ie = 1: handlers
never nest. -/
def Obligations.InterruptsAreDeliveredOnlyToAnUnmaskedThread : Prop :=
  (∀ s : State,
    (s.deliveryEnabled = true ↔
      ((s.bank.cs.getLsbD 9 = true ∧ s.bank.cs.getLsbD 7 = true ∧ s.eng.txq = [] ∧ s.eng.busy = false) ∨
       (s.bank.cs.getLsbD 10 = true ∧ s.bank.cs.getLsbD 7 = true ∧ s.cfg.rxrThreshold ≤ s.eng.rxq.length)) ∧
      s.seq.ie = true ∧ s.seq.ctx = .thread) ∧
    (s.entryEnabled = true ↔ s.deliveryEnabled = true ∧ s.seq.irqAttached = true)) ∧
  (∀ s t : State, Inv s → step s = .next t → s.seq.ctx = .thread → t.seq.ctx = .interrupt →
    s.entryEnabled = true ∧ t.seq.ie = false ∧
    t.seq.thread = s.seq.thread ∧ t.bank = s.bank ∧ t.eng = s.eng ∧ t.mem = s.mem ∧ t.book = s.book) ∧
  (∀ s t : State, Inv s → step s = .next t → s.seq.ctx = .interrupt →
    s.deliveryEnabled = false ∧ t.seq.thread = s.seq.thread ∧
    ((t.seq.ctx = .interrupt ∧ t.seq.ie = false) ∨
     (t.seq.ctx = .thread ∧ t.seq.ie = true ∧ t.seq.intr = [] ∧ ∃ e pos, s.seq.intr = [.handlerF e pos])))

/-- R280, R286, R287, R341: when neither branch applies (no DONE ∧ TA with bytes remaining, no RXR) IRQ_HANDLER makes
one CS read and returns: host.ctx ← thread, host.ie ← 1, the thread resumes where it stopped, and no register,
FIFO, device or byte of memory changes. -/
def Obligations.HandlerWithoutCauseReturns : Prop :=
  ∀ (s : State) (d : Nat) (D : LogicalDevice), csClean s → s.seq.ctx = .interrupt → s.seq.intr = [] →
    s.seq.irqCtx = some d → s.dev? d = some D →
    ¬ (s.bank.cs.getLsbD 7 = true ∧ s.eng.txq = [] ∧ s.eng.busy = false ∧ 0 < D.remaining) →
    ¬ (s.bank.cs.getLsbD 7 = true ∧ s.cfg.rxrThreshold ≤ s.eng.rxq.length) →
    ∃ t v env, exec .irqHandler s = .next t ∧ sameInputs env s.env ∧
      hostRun 1 t =
        .next { s with
          seq := { s.seq with ctx := .thread, ie := true }
          host := withRdata s.host v
          book := recorded s.book [csReadEv v]
          env := env }

/-- R282, R284, R286, R266: IRQ_HANDLER on an interrupt device with DMAEN = 0. With DONE, TA and bytes remaining it
starts the re-entrant TRANSFER of min(remaining, P_TX_LOW_WATER) bytes from the device's cursors; when that does not
hold and RXR does (and the remaining count is not negative), one of min(remaining, P_RX_HIGH_WATER) bytes. It then
stands at that TRANSFER's PUMP, with no register, FIFO or byte of memory changed. -/
def Obligations.HandlerBranchesStartAChunk : Prop :=
  ∀ (s : State) (d : Nat) (D : LogicalDevice), csClean s → s.seq.ctx = .interrupt → s.seq.intr = [] →
    s.seq.irqCtx = some d → s.dev? d = some D → (D.irqDone = true ∨ D.irqRecv = true) →
    inInt32 D.remaining = true → s.bank.cs.getLsbD 8 = false → s.bank.cs.getLsbD 7 = true →
    (s.eng.txq = [] → s.eng.busy = false → 0 < D.remaining →
      ∃ t u n, exec .irqHandler s = .next t ∧ hostRun 1 t = .next u ∧
        n.toInt = min D.remaining s.cfg.txLowWater ∧
        u.seq = { s.seq with intr := [.transferF d D.src D.dst n .chunkPump, .handlerF d (.chunkA n)] } ∧
        u.bank = s.bank ∧ u.eng = s.eng ∧ u.mem = s.mem) ∧
    (¬ (s.eng.txq = [] ∧ s.eng.busy = false ∧ 0 < D.remaining) → s.cfg.rxrThreshold ≤ s.eng.rxq.length →
      0 ≤ D.remaining →
      ∃ t u n, exec .irqHandler s = .next t ∧ hostRun 1 t = .next u ∧
        n.toInt = min D.remaining s.cfg.rxHighWater ∧
        u.seq = { s.seq with
          intr := [.transferF d D.src D.dst n .chunkPump, .handlerF d (.chunkB n D.remaining)] } ∧
        u.bank = s.bank ∧ u.eng = s.eng ∧ u.mem = s.mem)

/-- R283, R293: after a branch-A chunk with D.remaining = 0 and no byte in flight, the handler clears TA with a
read-modify-write, records CALLBACK(on_send_complete, d) once and returns; with D.remaining not 0 it returns and
leaves TA as it is. -/
def Obligations.HandlerCompletionClearsTaAndCallsBack : Prop :=
  ∀ (s : State) (d : Nat) (D : LogicalDevice), csClean s → s.seq.ctx = .interrupt →
    s.seq.intr = [.handlerF d .afterA] → s.dev? d = some D →
    (D.remaining = 0 → ¬ midByte s →
      ∃ v env, hostRun 4 s =
        .next { s with
          bank.cs := s.bank.cs &&& ~~~0x80#32
          seq := { s.seq with ctx := .thread, ie := true, intr := [] }
          host := withRdata s.host v
          book := recorded s.book
            [csReadEv v, csWriteEv (v &&& ~~~0x80#32), .callback .onSendComplete d]
          env := env }) ∧
    (D.remaining ≠ 0 →
      hostRun 1 s = .next { s with seq := { s.seq with ctx := .thread, ie := true, intr := [] } })

/-- R284, R285: after a branch-B chunk the handler records CALLBACK(on_send_complete, d), not on_data_received,
exactly when the device has an output buffer and the chunk reduced its remaining count, and returns; it does not
clear TA. Where the difference of the two counts leaves the 32-bit range the model takes it exactly (log 15). -/
def Obligations.HandlerReceiveBranchCallsSendComplete : Prop :=
  ∀ (s : State) (d : Nat) (D : LogicalDevice) (before : Int), s.seq.ctx = .interrupt →
    s.seq.intr = [.handlerF d (.afterB before)] → s.dev? d = some D →
    (D.dst ≠ none → D.remaining < before →
      hostRun 2 s =
        .next { s with
          seq := { s.seq with ctx := .thread, ie := true, intr := [] }
          book := recorded s.book [.callback .onSendComplete d] }) ∧
    ((D.dst = none ∨ before ≤ D.remaining) →
      hostRun 1 s = .next { s with seq := { s.seq with ctx := .thread, ie := true, intr := [] } })

/-- R299 case 1, R212, R342: an armed device with both buffers none, its line attached: the whole handler entry, its
TRANSFER and its PUMP move nothing, D.remaining keeps its value, and on return DONE is still 1, so with INTD = 1 IRQ is 1
and an entry is enabled again: what holds at this entry holds at the next. -/
def Obligations.HandlerOnEmptyBuffersIsALivelock : Prop :=
  ∀ (s : State) (d : Nat) (D : LogicalDevice), csClean s → s.seq.ctx = .interrupt → s.seq.intr = [] →
    s.seq.irqAttached = true → s.seq.irqCtx = some d → s.dev? d = some D → D.irqDone = true → D.src = none →
    D.dst = none → inInt32 D.remaining = true → 0 < D.remaining → s.bank.cs.getLsbD 8 = false →
    s.bank.cs.getLsbD 7 = true → s.bank.cs.getLsbD 9 = true →
    s.eng.txq = [] → s.eng.rxq = [] → s.eng.busy = false →
    ∃ t u, exec .irqHandler s = .next t ∧ hostRun 8 t = .next u ∧
      u.seq = { s.seq with ctx := .thread, ie := true } ∧
      u.bank = { s.bank with dlen := s.cfg.errataDlen } ∧ u.eng = s.eng ∧ u.mem = s.mem ∧
      u.entryEnabled = true

/-- R120, R121, R22, R54: the lines of a host program that are no block operation. `cli` sets host.ie ← 0 and `sti` sets
host.ie ← 1; `goto` moves to its line and `if .. goto` to its line or the next, as its comparison of two values says,
and neither changes anything else. An expression's value is its constant, its variable's word, or the `|`, `&`, `~` of
its parts. A line that reads a variable never written is a fault of the program. `t <- rd CS` leaves what it read in
t, and other variables as they were. That labels are line numbers is the model's form of R120. -/
def Obligations.HostLinesMoveTheProgram : Prop :=
  ∀ s : State, idle s →
    let line := s.host.lines[s.host.pc]?
    let eval := evalExpr s.host.vars
    (line = some .cli → hostStep s = .next { s with host.pc := s.host.pc + 1, seq.ie := false }) ∧
    (line = some .sti → hostStep s = .next { s with host.pc := s.host.pc + 1, seq.ie := true }) ∧
    (∀ n, line = some (.goto n) → hostStep s = .next { s with host.pc := n }) ∧
    (∀ a b n x y, eval a = .ok x → eval b = .ok y →
      (line = some (.ifGoto (.eq a b) n) →
        hostStep s = .next { s with host.pc := if x = y then n else s.host.pc + 1 }) ∧
      (line = some (.ifGoto (.ne a b) n) →
        hostStep s = .next { s with host.pc := if x = y then s.host.pc + 1 else n }) ∧
      eval (.or a b) = .ok (x ||| y) ∧ eval (.and a b) = .ok (x &&& y) ∧ eval (.not a) = .ok (~~~x)) ∧
    (∀ w, eval (.const w) = .ok w) ∧
    (∀ v w, lookupVar s.host.vars v = some (.word w) → eval (.var v) = .ok w) ∧
    (∀ v, lookupVar s.host.vars v = none → eval (.var v) = .error v) ∧
    (∀ a b v w n, eval a = .error v →
      (line = some (.write w a) ∨ line = some (.ifGoto (.eq a b) n) ∨ line = some (.ifGoto (.ne a b) n)) →
      hostStep s = .fault (.unwrittenVariable v)) ∧
    (∀ v, line = some (.command [0x00#8, 0x04#8] (some v)) →
      ∃ t, hostStep s = .next t ∧ t.host.pc = s.host.pc + 1 ∧ t.book = recorded s.book [csReadEv t.host.rdata] ∧
        lookupVar t.host.vars v = some (.word t.host.rdata) ∧
        ∀ k, k ≠ v → lookupVar t.host.vars k = lookupVar s.host.vars k)

/-! ## The whole machine -/

/-- R297, R285: a step that adds a CALLBACK event is a step of IRQ_HANDLER itself, taken in interrupt context with
host.ie = 0, and the callback is on_send_complete: no rule ever invokes on_data_received. -/
def Obligations.CallbacksComeOnlyFromTheHandler : Prop :=
  ∀ (s t : State) (name : CallbackName) (d : Nat), Inv s → step s = .next t →
    (∃ es, t.book.events = s.book.events ++ es ∧ Event.callback name d ∈ es) →
    s.seq.ctx = .interrupt ∧ s.seq.ie = false ∧ name = .onSendComplete ∧
    ∃ e pos l, s.seq.intr = .handlerF e pos :: l

/-- R383, R8, R60: no step changes a device's configuration (R383) or the number of devices, nor a parameter (R8; that
the parameters are a field of State is the model's choice, log 1, DESIGN CHOICE), and the event history is only
appended to. -/
def Obligations.ConfigurationIsFixedAndHistoryOnlyGrows : Prop :=
  ∀ s t : State, step s = .next t →
    t.cfg = s.cfg ∧ t.seq.devs.map deviceConfig = s.seq.devs.map deviceConfig ∧
    ∃ es, t.book.events = s.book.events ++ es

/-- R218, R341, R406, R325: every infinite run is weakly fair: an ENGINE step, or an interrupt entry, that stays enabled
is eventually taken. So a machine that never stops stepping hangs. How long one may be passed over is a free value of
the model (log 7). -/
def Obligations.EveryInfiniteRunIsWeaklyFair : Prop :=
  (∀ r : Nat → State, IsRun r → WeaklyFair r) ∧
  (∀ s : State, (∀ k, ∃ t, Host.Core.run Sys2Proof.core k s = .next t) → s.hangs)

/-- R53: only SELECT changes irq_attached and irq_ctx. -/
def Obligations.OnlySelectChangesTheAttachment : Prop :=
  ∀ s t : State, step s = .next t → ¬ selecting s →
    t.seq.irqAttached = s.seq.irqAttached ∧ t.seq.irqCtx = s.seq.irqCtx

/-- R290: only an arm makes D.remaining grow: a step after which it is larger is the arm's assignment to it. -/
def Obligations.OnlyAnArmRaisesTheRemainingCount : Prop :=
  ∀ (s t : State) (e : Nat) (D D' : LogicalDevice), step s = .next t → s.dev? e = some D → t.dev? e = some D' →
    D.remaining < D'.remaining →
    ∃ src dst n l, s.stack = .transferF e src dst n .armRemaining :: l

/-- R406, R407: with the program complete and nothing running, no byte in the engine, no fault and no refusal: when no
device is armed and IRQ = 0 or host.ie = 0 the state is final, and the run is complete (that the step then answers
runComplete is log 13); an armed transfer whose interrupts are not enabled is not a final state: no agent can step and the
run is stuck. -/
def Obligations.RunEndsCompleteOrStuck : Prop :=
  ∀ s : State, s.runStop = none → idle s → s.host.lines.length ≤ s.host.pc → s.eng.busy = false → s.eng.txq = [] →
    ((∀ D ∈ s.seq.devs, D.remaining = 0) → (s.irq = false ∨ s.seq.ie = false) →
      s.final = true ∧ step s = .refused .runComplete) ∧
    (∀ (d : Nat) (D : LogicalDevice), s.dev? d = some D → 0 < D.remaining →
      s.bank.cs.getLsbD 9 = false → s.bank.cs.getLsbD 10 = false →
      s.final = false ∧ step s = .fault .stuck)
end

