-- ==== Sys2Proof/Laws/Decode.lean ====
section
/-! SUPPORT. Reading back what the encoder writes, item by item (R111, R114, log 4), and the command words of R119
decoded to what follows them. -/

namespace Sys2Proof

/-- Two adjoining fields of a word, side by side, are one field. -/
theorem extract_append {w : Nat} (x : BitVec w) (a m n : Nat) :
    x.extractLsb' (a + n) m ++ x.extractLsb' a n = x.extractLsb' a (m + n) := by
  apply BitVec.eq_of_getLsbD_eq
  intro i hi
  rw [BitVec.getLsbD_append, BitVec.getLsbD_extractLsb', BitVec.getLsbD_extractLsb', BitVec.getLsbD_extractLsb']
  by_cases h : i < n
  · simp [h, hi]
  · have h1 : i - n < m := by omega
    have h2 : a + n + (i - n) = a + i := by omega
    simp [h, hi, h1, h2]

/-- The whole of a word as a field. -/
theorem extract_all {w : Nat} (x : BitVec w) : x.extractLsb' 0 w = x := by
  apply BitVec.eq_of_getLsbD_eq
  intro i hi
  simp [hi]

/-- A 16-bit word reads back. -/
@[simp] theorem take16_bytes16 (w : Half) (rest : List Byte) : take16 (bytes16 w ++ rest) = .ok (w, rest) := by
  simp only [bytes16, List.cons_append, List.nil_append, take16]
  rw [show w.extractLsb' 8 8 ++ w.extractLsb' 0 8 = w from (extract_append w 0 8 8).trans (extract_all w)]

/-- A 32-bit item reads back. -/
@[simp] theorem take32_bytes32 (w : Word) (rest : List Byte) : take32 (bytes32 w ++ rest) = .ok (w, rest) := by
  simp only [bytes32, List.cons_append, List.nil_append, take32]
  rw [show w.extractLsb' 24 8 ++ w.extractLsb' 16 8 = w.extractLsb' 16 16 from extract_append w 16 8 8,
    show w.extractLsb' 16 16 ++ w.extractLsb' 8 8 = w.extractLsb' 8 24 from extract_append w 8 16 8,
    show w.extractLsb' 8 24 ++ w.extractLsb' 0 8 = w from (extract_append w 0 24 8).trans (extract_all w)]

/-- A device index reads back. -/
theorem takeDevice_bytes32 {d : Nat} (h : deviceFits d = true) (rest : List Byte) :
    takeDevice (bytes32 (BitVec.ofNat 32 d) ++ rest) = .ok (d, rest) := by
  have hd : d < 2 ^ 32 := by simpa [deviceFits] using h
  simp only [takeDevice, take32_bytes32, BitVec.toNat_ofNat, Nat.mod_eq_of_lt hd]

/-- The eight bytes of an address, put together. -/
theorem append_bytes64 (w : BitVec 64) :
    (w.extractLsb' 56 8 ++ w.extractLsb' 48 8 ++ w.extractLsb' 40 8 ++ w.extractLsb' 32 8 ++ w.extractLsb' 24 8 ++
      w.extractLsb' 16 8 ++ w.extractLsb' 8 8 ++ w.extractLsb' 0 8 : BitVec 64) = w := by
  rw [show w.extractLsb' 56 8 ++ w.extractLsb' 48 8 = w.extractLsb' 48 16 from extract_append w 48 8 8,
    show w.extractLsb' 48 16 ++ w.extractLsb' 40 8 = w.extractLsb' 40 24 from extract_append w 40 16 8,
    show w.extractLsb' 40 24 ++ w.extractLsb' 32 8 = w.extractLsb' 32 32 from extract_append w 32 24 8,
    show w.extractLsb' 32 32 ++ w.extractLsb' 24 8 = w.extractLsb' 24 40 from extract_append w 24 32 8,
    show w.extractLsb' 24 40 ++ w.extractLsb' 16 8 = w.extractLsb' 16 48 from extract_append w 16 40 8,
    show w.extractLsb' 16 48 ++ w.extractLsb' 8 8 = w.extractLsb' 8 56 from extract_append w 8 48 8,
    show w.extractLsb' 8 56 ++ w.extractLsb' 0 8 = w from (extract_append w 0 56 8).trans (extract_all w)]

/-- A buffer reads back. -/
theorem takeBuffer_bytesBuffer {b : Option Nat} (h : bufferFits b = true) (rest : List Byte) :
    takeBuffer (bytesBuffer b ++ rest) = .ok (b, rest) := by
  cases b with
  | none => rfl
  | some a =>
    have ha : a < 2 ^ 64 := by simpa [bufferFits] using h
    simp only [bytesBuffer, bytes64, List.cons_append, List.nil_append, takeBuffer]
    rw [append_bytes64, BitVec.toNat_ofNat, Nat.mod_eq_of_lt ha]
    rfl

/-- Decoding an encoded instruction decodes what follows its command word. -/
theorem decode_encode_append (i : Instr) (rest : List Byte) :
    decode (encode i ++ rest) = decodeCommand i.commandWord (i.items ++ rest) := by
  simp only [decode, encode, List.append_assoc, take16_bytes16]

end Sys2Proof
end

