-- ==== Sys2Proof/Laws/Fields.lean ====
section
/-! SUPPORT. Bits and masks: a one-bit field constant tests its bit, and what a CS read shows of a state whose CS
word holds stored fields only (R24, R33 to R38, R140). -/

namespace Sys2Proof.Machine

/-! ## Masks are bits -/

/-- A mask of one bit tests that bit. -/
theorem has_twoPow (w : Word) (k : Nat) (hk : k < 32) : Word.has w (BitVec.twoPow 32 k) = w.getLsbD k := by
  unfold Word.has
  rw [BitVec.and_twoPow]
  cases h : w.getLsbD k
  · simp
  · have : BitVec.twoPow 32 k ≠ 0#32 := by
      intro h0
      have := congrArg (fun v => v.getLsbD k) h0
      simp [hk] at this
    simpa using this

@[simp] theorem has_CPHA (w : Word) : Word.has w CPHA = w.getLsbD 2 := has_twoPow w 2 (by decide)
@[simp] theorem has_CPOL (w : Word) : Word.has w CPOL = w.getLsbD 3 := has_twoPow w 3 (by decide)
@[simp] theorem has_CLEAR_TX (w : Word) : Word.has w CLEAR_TX = w.getLsbD 4 := has_twoPow w 4 (by decide)
@[simp] theorem has_CLEAR_RX (w : Word) : Word.has w CLEAR_RX = w.getLsbD 5 := has_twoPow w 5 (by decide)
@[simp] theorem has_CSPOL (w : Word) : Word.has w CSPOL = w.getLsbD 6 := has_twoPow w 6 (by decide)
@[simp] theorem has_TA (w : Word) : Word.has w TA = w.getLsbD 7 := has_twoPow w 7 (by decide)
@[simp] theorem has_DMAEN (w : Word) : Word.has w DMAEN = w.getLsbD 8 := has_twoPow w 8 (by decide)
@[simp] theorem has_INTD (w : Word) : Word.has w INTD = w.getLsbD 9 := has_twoPow w 9 (by decide)
@[simp] theorem has_INTR (w : Word) : Word.has w INTR = w.getLsbD 10 := has_twoPow w 10 (by decide)
@[simp] theorem has_REN (w : Word) : Word.has w REN = w.getLsbD 12 := has_twoPow w 12 (by decide)
@[simp] theorem has_LEN (w : Word) : Word.has w LEN = w.getLsbD 13 := has_twoPow w 13 (by decide)
@[simp] theorem has_DONE (w : Word) : Word.has w DONE = w.getLsbD 16 := has_twoPow w 16 (by decide)
@[simp] theorem has_RXD (w : Word) : Word.has w RXD = w.getLsbD 17 := has_twoPow w 17 (by decide)
@[simp] theorem has_TXD (w : Word) : Word.has w TXD = w.getLsbD 18 := has_twoPow w 18 (by decide)
@[simp] theorem has_RXR (w : Word) : Word.has w RXR = w.getLsbD 19 := has_twoPow w 19 (by decide)

/-- R24: the word of the stored fields. -/
theorem csStored_eq : csStored = 0x03E0FFCF#32 := by decide

/-- R39: the word of the configuration fields. -/
theorem csConfig_eq : csConfig = 0x03E0394F#32 := by decide

/-! ## The stored fields as bits of CS -/

theorem ta_eq (s : State) : s.ta = s.bank.cs.getLsbD 7 := has_TA _
theorem cpha_eq (s : State) : s.cpha = s.bank.cs.getLsbD 2 := has_CPHA _
theorem cpol_eq (s : State) : s.cpol = s.bank.cs.getLsbD 3 := has_CPOL _
theorem cspol_eq (s : State) : s.cspol = s.bank.cs.getLsbD 6 := has_CSPOL _
theorem dmaen_eq (s : State) : s.dmaen = s.bank.cs.getLsbD 8 := has_DMAEN _
theorem intd_eq (s : State) : s.intd = s.bank.cs.getLsbD 9 := has_INTD _
theorem intr_eq (s : State) : s.intr = s.bank.cs.getLsbD 10 := has_INTR _
theorem ren_eq (s : State) : s.ren = s.bank.cs.getLsbD 12 := has_REN _
theorem len_eq (s : State) : s.len = s.bank.cs.getLsbD 13 := has_LEN _

/-! ## Clean words -/

/-- `&` distributes over `|`. -/
theorem or_and_distrib (x y m : Word) : (x ||| y) &&& m = (x &&& m) ||| (y &&& m) := by
  ext i hi
  simp only [BitVec.getElem_or, BitVec.getElem_and]
  cases x[i] <;> cases y[i] <;> cases m[i] <;> rfl

/-- A word with no bit outside a mask is the word masked. -/
theorem and_mask_of_clean {w m : Word} (h : w &&& ~~~m = 0#32) : w &&& m = w := by
  have h2 : w &&& m ||| (w &&& ~~~m) = w := by
    ext i hi
    simp only [BitVec.getElem_or, BitVec.getElem_and, BitVec.getElem_not]
    cases w[i] <;> cases m[i] <;> rfl
  rw [h] at h2
  simpa using h2

/-- A word masked is clean. -/
theorem clean_of_and_mask (w m : Word) : (w &&& m) &&& ~~~m = 0#32 := by
  ext i hi
  simp only [BitVec.getElem_and, BitVec.getElem_not, BitVec.getElem_zero]
  cases w[i] <;> cases m[i] <;> rfl

/-- A bit outside the mask of a clean word is 0. -/
theorem getLsbD_of_clean {w m : Word} (h : w &&& ~~~m = 0#32) {k : Nat} (hm : m.getLsbD k = false) :
    w.getLsbD k = false := by
  have := congrArg (fun v => v.getLsbD k) (and_mask_of_clean h)
  simpa [hm] using this.symm

/-! ## What a CS read shows -/

/-- The flags are no stored fields. -/
theorem flags_and_stored (s : State) : s.flags &&& csStored = 0#32 := by
  unfold State.flags flagAt
  cases s.done <;> cases s.rxd <;> cases s.txd <;> cases s.rxr <;> cases s.rxf <;> decide

/-- Reserved bits are no stored fields. -/
theorem reserved_and_stored (w : Word) : (w &&& csReserved) &&& csStored = 0#32 := by
  rw [BitVec.and_assoc, show csReserved &&& csStored = 0#32 by decide, BitVec.and_zero]

/-- A CS read shows the stored fields. -/
theorem csRdata_and_stored (s : State) : s.csRdata &&& csStored = s.bank.cs &&& csStored := by
  rw [State.csRdata, State.csWord, or_and_distrib, or_and_distrib, flags_and_stored, reserved_and_stored]
  simp

/-- A bit of a CS read: stored field, flag or reserved bit. -/
theorem csRdata_getLsbD (s : State) (k : Nat) :
    s.csRdata.getLsbD k =
      (s.bank.cs.getLsbD k || s.flags.getLsbD k || (s.drawValue.getLsbD k && csReserved.getLsbD k)) := by
  simp [State.csRdata, State.csWord]

theorem flags_getLsbD_done (s : State) : s.flags.getLsbD 16 = s.done := by
  unfold State.flags flagAt
  cases s.done <;> cases s.rxd <;> cases s.txd <;> cases s.rxr <;> cases s.rxf <;> decide
theorem flags_getLsbD_rxd (s : State) : s.flags.getLsbD 17 = s.rxd := by
  unfold State.flags flagAt
  cases s.done <;> cases s.rxd <;> cases s.txd <;> cases s.rxr <;> cases s.rxf <;> decide
theorem flags_getLsbD_txd (s : State) : s.flags.getLsbD 18 = s.txd := by
  unfold State.flags flagAt
  cases s.done <;> cases s.rxd <;> cases s.txd <;> cases s.rxr <;> cases s.rxf <;> decide
theorem flags_getLsbD_rxr (s : State) : s.flags.getLsbD 19 = s.rxr := by
  unfold State.flags flagAt
  cases s.done <;> cases s.rxd <;> cases s.txd <;> cases s.rxr <;> cases s.rxf <;> decide
theorem flags_getLsbD_rxf (s : State) : s.flags.getLsbD 20 = s.rxf := by
  unfold State.flags flagAt
  cases s.done <;> cases s.rxd <;> cases s.txd <;> cases s.rxr <;> cases s.rxf <;> decide

/-- A stored bit of a CS read. -/
theorem csRdata_stored_bit (s : State) {k : Nat} (hk : csStored.getLsbD k = true) :
    s.csRdata.getLsbD k = s.bank.cs.getLsbD k := by
  have := congrArg (fun v => v.getLsbD k) (csRdata_and_stored s)
  simpa [hk] using this

variable {s : State}

/-- R33: a CS read shows DONE. -/
theorem csRdata_done (h : s.bank.cs &&& ~~~csStored = 0#32) : s.csRdata.getLsbD 16 = s.done := by
  rw [csRdata_getLsbD, flags_getLsbD_done, getLsbD_of_clean h (by decide)]
  rw [show csReserved.getLsbD 16 = false from by decide, Bool.and_false, Bool.or_false, Bool.false_or]

/-- R34: a CS read shows RXD. -/
theorem csRdata_rxd (h : s.bank.cs &&& ~~~csStored = 0#32) : s.csRdata.getLsbD 17 = s.rxd := by
  rw [csRdata_getLsbD, flags_getLsbD_rxd, getLsbD_of_clean h (by decide)]
  rw [show csReserved.getLsbD 17 = false from by decide, Bool.and_false, Bool.or_false, Bool.false_or]

/-- R35: a CS read shows TXD. -/
theorem csRdata_txd (h : s.bank.cs &&& ~~~csStored = 0#32) : s.csRdata.getLsbD 18 = s.txd := by
  rw [csRdata_getLsbD, flags_getLsbD_txd, getLsbD_of_clean h (by decide)]
  rw [show csReserved.getLsbD 18 = false from by decide, Bool.and_false, Bool.or_false, Bool.false_or]

/-- R36: a CS read shows RXR. -/
theorem csRdata_rxr (h : s.bank.cs &&& ~~~csStored = 0#32) : s.csRdata.getLsbD 19 = s.rxr := by
  rw [csRdata_getLsbD, flags_getLsbD_rxr, getLsbD_of_clean h (by decide)]
  rw [show csReserved.getLsbD 19 = false from by decide, Bool.and_false, Bool.or_false, Bool.false_or]

/-- R37: a CS read shows RXF. -/
theorem csRdata_rxf (h : s.bank.cs &&& ~~~csStored = 0#32) : s.csRdata.getLsbD 20 = s.rxf := by
  rw [csRdata_getLsbD, flags_getLsbD_rxf, getLsbD_of_clean h (by decide)]
  rw [show csReserved.getLsbD 20 = false from by decide, Bool.and_false, Bool.or_false, Bool.false_or]

/-- R27, R140: the CLEAR bits read as 0. -/
theorem csRdata_clear (h : s.bank.cs &&& ~~~csStored = 0#32) :
    s.csRdata.getLsbD 4 = false ∧ s.csRdata.getLsbD 5 = false := by
  constructor <;> rw [csRdata_getLsbD, getLsbD_of_clean h (by decide)] <;>
    simp [State.flags, flagAt] <;>
    cases s.done <;> cases s.rxd <;> cases s.txd <;> cases s.rxr <;> cases s.rxf <;>
    simp [DONE, RXD, TXD, RXR, RXF, csReserved]

/-- R86: of a value read from CS and OR-ed with stored bits, what a write stores. -/
theorem csRdata_or_and_stored (h : s.bank.cs &&& ~~~csStored = 0#32) (m : Word) :
    (s.csRdata ||| m) &&& csStored = s.bank.cs ||| (m &&& csStored) := by
  rw [or_and_distrib, csRdata_and_stored, and_mask_of_clean h]

/-- R86: of a value read from CS with bits masked out, what a write stores. -/
theorem csRdata_and_and_stored (h : s.bank.cs &&& ~~~csStored = 0#32) (m : Word) :
    (s.csRdata &&& m) &&& csStored = s.bank.cs &&& m := by
  rw [BitVec.and_assoc, BitVec.and_comm m, ← BitVec.and_assoc, csRdata_and_stored, and_mask_of_clean h]

end Sys2Proof.Machine
end

