-- ==== Sys2Proof/Laws/State.lean ====
section
/-! SUPPORT. One lemma for each part of the state under each update, true by rfl, so that no later proof unfolds a
record update. -/

namespace Sys2Proof.Machine

/-! `log` changes book only. -/

@[simp] theorem State.log_cfg (s : State) (e : Event) : (s.log e).cfg = s.cfg := rfl
@[simp] theorem State.log_bank (s : State) (e : Event) : (s.log e).bank = s.bank := rfl
@[simp] theorem State.log_eng (s : State) (e : Event) : (s.log e).eng = s.eng := rfl
@[simp] theorem State.log_seq (s : State) (e : Event) : (s.log e).seq = s.seq := rfl
@[simp] theorem State.log_mem (s : State) (e : Event) : (s.log e).mem = s.mem := rfl
@[simp] theorem State.log_host (s : State) (e : Event) : (s.log e).host = s.host := rfl
@[simp] theorem State.log_env (s : State) (e : Event) : (s.log e).env = s.env := rfl

/-! `drawn` changes env only. -/

@[simp] theorem State.drawn_cfg (s : State) : s.drawn.cfg = s.cfg := rfl
@[simp] theorem State.drawn_bank (s : State) : s.drawn.bank = s.bank := rfl
@[simp] theorem State.drawn_eng (s : State) : s.drawn.eng = s.eng := rfl
@[simp] theorem State.drawn_seq (s : State) : s.drawn.seq = s.seq := rfl
@[simp] theorem State.drawn_mem (s : State) : s.drawn.mem = s.mem := rfl
@[simp] theorem State.drawn_host (s : State) : s.drawn.host = s.host := rfl
@[simp] theorem State.drawn_book (s : State) : s.drawn.book = s.book := rfl

/-! `memStore` changes mem only. -/

@[simp] theorem State.memStore_cfg (s : State) (a : Nat) (v : Byte) : (s.memStore a v).cfg = s.cfg := rfl
@[simp] theorem State.memStore_bank (s : State) (a : Nat) (v : Byte) : (s.memStore a v).bank = s.bank := rfl
@[simp] theorem State.memStore_eng (s : State) (a : Nat) (v : Byte) : (s.memStore a v).eng = s.eng := rfl
@[simp] theorem State.memStore_seq (s : State) (a : Nat) (v : Byte) : (s.memStore a v).seq = s.seq := rfl
@[simp] theorem State.memStore_host (s : State) (a : Nat) (v : Byte) : (s.memStore a v).host = s.host := rfl
@[simp] theorem State.memStore_book (s : State) (a : Nat) (v : Byte) : (s.memStore a v).book = s.book := rfl
@[simp] theorem State.memStore_env (s : State) (a : Nat) (v : Byte) : (s.memStore a v).env = s.env := rfl

/-! `updateDev` changes seq only. -/

@[simp] theorem State.updateDev_cfg (s : State) (d : Nat) (f : LogicalDevice → LogicalDevice) : (s.updateDev d f).cfg = s.cfg := rfl
@[simp] theorem State.updateDev_bank (s : State) (d : Nat) (f : LogicalDevice → LogicalDevice) : (s.updateDev d f).bank = s.bank := rfl
@[simp] theorem State.updateDev_eng (s : State) (d : Nat) (f : LogicalDevice → LogicalDevice) : (s.updateDev d f).eng = s.eng := rfl
@[simp] theorem State.updateDev_mem (s : State) (d : Nat) (f : LogicalDevice → LogicalDevice) : (s.updateDev d f).mem = s.mem := rfl
@[simp] theorem State.updateDev_host (s : State) (d : Nat) (f : LogicalDevice → LogicalDevice) : (s.updateDev d f).host = s.host := rfl
@[simp] theorem State.updateDev_book (s : State) (d : Nat) (f : LogicalDevice → LogicalDevice) : (s.updateDev d f).book = s.book := rfl
@[simp] theorem State.updateDev_env (s : State) (d : Nat) (f : LogicalDevice → LogicalDevice) : (s.updateDev d f).env = s.env := rfl

/-! `setStack` changes seq only. -/

@[simp] theorem State.setStack_cfg (s : State) (l : List Frame) : (s.setStack l).cfg = s.cfg := rfl
@[simp] theorem State.setStack_bank (s : State) (l : List Frame) : (s.setStack l).bank = s.bank := rfl
@[simp] theorem State.setStack_eng (s : State) (l : List Frame) : (s.setStack l).eng = s.eng := rfl
@[simp] theorem State.setStack_mem (s : State) (l : List Frame) : (s.setStack l).mem = s.mem := rfl
@[simp] theorem State.setStack_host (s : State) (l : List Frame) : (s.setStack l).host = s.host := rfl
@[simp] theorem State.setStack_book (s : State) (l : List Frame) : (s.setStack l).book = s.book := rfl
@[simp] theorem State.setStack_env (s : State) (l : List Frame) : (s.setStack l).env = s.env := rfl

/-! `push` changes seq only. -/

@[simp] theorem State.push_cfg (s : State) (f : Frame) : (s.push f).cfg = s.cfg := rfl
@[simp] theorem State.push_bank (s : State) (f : Frame) : (s.push f).bank = s.bank := rfl
@[simp] theorem State.push_eng (s : State) (f : Frame) : (s.push f).eng = s.eng := rfl
@[simp] theorem State.push_mem (s : State) (f : Frame) : (s.push f).mem = s.mem := rfl
@[simp] theorem State.push_host (s : State) (f : Frame) : (s.push f).host = s.host := rfl
@[simp] theorem State.push_book (s : State) (f : Frame) : (s.push f).book = s.book := rfl
@[simp] theorem State.push_env (s : State) (f : Frame) : (s.push f).env = s.env := rfl

/-! `moveTo` changes seq only. -/

@[simp] theorem State.moveTo_cfg (s : State) (f : Frame) : (s.moveTo f).cfg = s.cfg := rfl
@[simp] theorem State.moveTo_bank (s : State) (f : Frame) : (s.moveTo f).bank = s.bank := rfl
@[simp] theorem State.moveTo_eng (s : State) (f : Frame) : (s.moveTo f).eng = s.eng := rfl
@[simp] theorem State.moveTo_mem (s : State) (f : Frame) : (s.moveTo f).mem = s.mem := rfl
@[simp] theorem State.moveTo_host (s : State) (f : Frame) : (s.moveTo f).host = s.host := rfl
@[simp] theorem State.moveTo_book (s : State) (f : Frame) : (s.moveTo f).book = s.book := rfl
@[simp] theorem State.moveTo_env (s : State) (f : Frame) : (s.moveTo f).env = s.env := rfl

/-! `pop` changes seq only. -/

@[simp] theorem State.pop_cfg (s : State) : s.pop.cfg = s.cfg := rfl
@[simp] theorem State.pop_bank (s : State) : s.pop.bank = s.bank := rfl
@[simp] theorem State.pop_eng (s : State) : s.pop.eng = s.eng := rfl
@[simp] theorem State.pop_mem (s : State) : s.pop.mem = s.mem := rfl
@[simp] theorem State.pop_host (s : State) : s.pop.host = s.host := rfl
@[simp] theorem State.pop_book (s : State) : s.pop.book = s.book := rfl
@[simp] theorem State.pop_env (s : State) : s.pop.env = s.env := rfl

/-! `enterInterrupt` changes seq only. -/

@[simp] theorem State.enterInterrupt_cfg (s : State) : s.enterInterrupt.cfg = s.cfg := rfl
@[simp] theorem State.enterInterrupt_bank (s : State) : s.enterInterrupt.bank = s.bank := rfl
@[simp] theorem State.enterInterrupt_eng (s : State) : s.enterInterrupt.eng = s.eng := rfl
@[simp] theorem State.enterInterrupt_mem (s : State) : s.enterInterrupt.mem = s.mem := rfl
@[simp] theorem State.enterInterrupt_host (s : State) : s.enterInterrupt.host = s.host := rfl
@[simp] theorem State.enterInterrupt_book (s : State) : s.enterInterrupt.book = s.book := rfl
@[simp] theorem State.enterInterrupt_env (s : State) : s.enterInterrupt.env = s.env := rfl

/-! `returnFromInterrupt` changes seq only. -/

@[simp] theorem State.returnFromInterrupt_cfg (s : State) : s.returnFromInterrupt.cfg = s.cfg := rfl
@[simp] theorem State.returnFromInterrupt_bank (s : State) : s.returnFromInterrupt.bank = s.bank := rfl
@[simp] theorem State.returnFromInterrupt_eng (s : State) : s.returnFromInterrupt.eng = s.eng := rfl
@[simp] theorem State.returnFromInterrupt_mem (s : State) : s.returnFromInterrupt.mem = s.mem := rfl
@[simp] theorem State.returnFromInterrupt_host (s : State) : s.returnFromInterrupt.host = s.host := rfl
@[simp] theorem State.returnFromInterrupt_book (s : State) : s.returnFromInterrupt.book = s.book := rfl
@[simp] theorem State.returnFromInterrupt_env (s : State) : s.returnFromInterrupt.env = s.env := rfl

/-! `endCommand` changes host only. -/

@[simp] theorem State.endCommand_cfg (s : State) (r : OpResult) : (s.endCommand r).cfg = s.cfg := rfl
@[simp] theorem State.endCommand_bank (s : State) (r : OpResult) : (s.endCommand r).bank = s.bank := rfl
@[simp] theorem State.endCommand_eng (s : State) (r : OpResult) : (s.endCommand r).eng = s.eng := rfl
@[simp] theorem State.endCommand_seq (s : State) (r : OpResult) : (s.endCommand r).seq = s.seq := rfl
@[simp] theorem State.endCommand_mem (s : State) (r : OpResult) : (s.endCommand r).mem = s.mem := rfl
@[simp] theorem State.endCommand_book (s : State) (r : OpResult) : (s.endCommand r).book = s.book := rfl
@[simp] theorem State.endCommand_env (s : State) (r : OpResult) : (s.endCommand r).env = s.env := rfl

/-! `refuse` changes book only. -/

@[simp] theorem State.refuse_cfg (s : State) : s.refuse.cfg = s.cfg := rfl
@[simp] theorem State.refuse_bank (s : State) : s.refuse.bank = s.bank := rfl
@[simp] theorem State.refuse_eng (s : State) : s.refuse.eng = s.eng := rfl
@[simp] theorem State.refuse_seq (s : State) : s.refuse.seq = s.seq := rfl
@[simp] theorem State.refuse_mem (s : State) : s.refuse.mem = s.mem := rfl
@[simp] theorem State.refuse_host (s : State) : s.refuse.host = s.host := rfl
@[simp] theorem State.refuse_env (s : State) : s.refuse.env = s.env := rfl

/-! `readDone` changes host, book only. -/

@[simp] theorem State.readDone_cfg (s : State) (op : BusOp) (v : Word) : (s.readDone op v).cfg = s.cfg := rfl
@[simp] theorem State.readDone_bank (s : State) (op : BusOp) (v : Word) : (s.readDone op v).bank = s.bank := rfl
@[simp] theorem State.readDone_eng (s : State) (op : BusOp) (v : Word) : (s.readDone op v).eng = s.eng := rfl
@[simp] theorem State.readDone_seq (s : State) (op : BusOp) (v : Word) : (s.readDone op v).seq = s.seq := rfl
@[simp] theorem State.readDone_mem (s : State) (op : BusOp) (v : Word) : (s.readDone op v).mem = s.mem := rfl
@[simp] theorem State.readDone_env (s : State) (op : BusOp) (v : Word) : (s.readDone op v).env = s.env := rfl

/-! `writeDone` changes book only. -/

@[simp] theorem State.writeDone_cfg (s : State) (op : BusOp) (w : Word) : (s.writeDone op w).cfg = s.cfg := rfl
@[simp] theorem State.writeDone_bank (s : State) (op : BusOp) (w : Word) : (s.writeDone op w).bank = s.bank := rfl
@[simp] theorem State.writeDone_eng (s : State) (op : BusOp) (w : Word) : (s.writeDone op w).eng = s.eng := rfl
@[simp] theorem State.writeDone_seq (s : State) (op : BusOp) (w : Word) : (s.writeDone op w).seq = s.seq := rfl
@[simp] theorem State.writeDone_mem (s : State) (op : BusOp) (w : Word) : (s.writeDone op w).mem = s.mem := rfl
@[simp] theorem State.writeDone_host (s : State) (op : BusOp) (w : Word) : (s.writeDone op w).host = s.host := rfl
@[simp] theorem State.writeDone_env (s : State) (op : BusOp) (w : Word) : (s.writeDone op w).env = s.env := rfl

/-! `readCs` changes host, book, env only. -/

@[simp] theorem State.readCs_cfg (s : State) : s.readCs.cfg = s.cfg := rfl
@[simp] theorem State.readCs_bank (s : State) : s.readCs.bank = s.bank := rfl
@[simp] theorem State.readCs_eng (s : State) : s.readCs.eng = s.eng := rfl
@[simp] theorem State.readCs_seq (s : State) : s.readCs.seq = s.seq := rfl
@[simp] theorem State.readCs_mem (s : State) : s.readCs.mem = s.mem := rfl

/-! `readClk` changes host, book, env only. -/

@[simp] theorem State.readClk_cfg (s : State) : s.readClk.cfg = s.cfg := rfl
@[simp] theorem State.readClk_bank (s : State) : s.readClk.bank = s.bank := rfl
@[simp] theorem State.readClk_eng (s : State) : s.readClk.eng = s.eng := rfl
@[simp] theorem State.readClk_seq (s : State) : s.readClk.seq = s.seq := rfl
@[simp] theorem State.readClk_mem (s : State) : s.readClk.mem = s.mem := rfl

/-! `readDlen` changes host, book, env only. -/

@[simp] theorem State.readDlen_cfg (s : State) : s.readDlen.cfg = s.cfg := rfl
@[simp] theorem State.readDlen_bank (s : State) : s.readDlen.bank = s.bank := rfl
@[simp] theorem State.readDlen_eng (s : State) : s.readDlen.eng = s.eng := rfl
@[simp] theorem State.readDlen_seq (s : State) : s.readDlen.seq = s.seq := rfl
@[simp] theorem State.readDlen_mem (s : State) : s.readDlen.mem = s.mem := rfl

/-! `readLtoh` changes host, book, env only. -/

@[simp] theorem State.readLtoh_cfg (s : State) : s.readLtoh.cfg = s.cfg := rfl
@[simp] theorem State.readLtoh_bank (s : State) : s.readLtoh.bank = s.bank := rfl
@[simp] theorem State.readLtoh_eng (s : State) : s.readLtoh.eng = s.eng := rfl
@[simp] theorem State.readLtoh_seq (s : State) : s.readLtoh.seq = s.seq := rfl
@[simp] theorem State.readLtoh_mem (s : State) : s.readLtoh.mem = s.mem := rfl

/-! `readDc` changes host, book only. -/

@[simp] theorem State.readDc_cfg (s : State) : s.readDc.cfg = s.cfg := rfl
@[simp] theorem State.readDc_bank (s : State) : s.readDc.bank = s.bank := rfl
@[simp] theorem State.readDc_eng (s : State) : s.readDc.eng = s.eng := rfl
@[simp] theorem State.readDc_seq (s : State) : s.readDc.seq = s.seq := rfl
@[simp] theorem State.readDc_mem (s : State) : s.readDc.mem = s.mem := rfl
@[simp] theorem State.readDc_env (s : State) : s.readDc.env = s.env := rfl

/-! `writeClk` changes bank, book only. -/

@[simp] theorem State.writeClk_cfg (s : State) (w : Word) : (s.writeClk w).cfg = s.cfg := rfl
@[simp] theorem State.writeClk_eng (s : State) (w : Word) : (s.writeClk w).eng = s.eng := rfl
@[simp] theorem State.writeClk_seq (s : State) (w : Word) : (s.writeClk w).seq = s.seq := rfl
@[simp] theorem State.writeClk_mem (s : State) (w : Word) : (s.writeClk w).mem = s.mem := rfl
@[simp] theorem State.writeClk_host (s : State) (w : Word) : (s.writeClk w).host = s.host := rfl
@[simp] theorem State.writeClk_env (s : State) (w : Word) : (s.writeClk w).env = s.env := rfl

/-! `writeDlen` changes bank, book only. -/

@[simp] theorem State.writeDlen_cfg (s : State) (w : Word) : (s.writeDlen w).cfg = s.cfg := rfl
@[simp] theorem State.writeDlen_eng (s : State) (w : Word) : (s.writeDlen w).eng = s.eng := rfl
@[simp] theorem State.writeDlen_seq (s : State) (w : Word) : (s.writeDlen w).seq = s.seq := rfl
@[simp] theorem State.writeDlen_mem (s : State) (w : Word) : (s.writeDlen w).mem = s.mem := rfl
@[simp] theorem State.writeDlen_host (s : State) (w : Word) : (s.writeDlen w).host = s.host := rfl
@[simp] theorem State.writeDlen_env (s : State) (w : Word) : (s.writeDlen w).env = s.env := rfl

/-! `writeLtoh` changes bank, book only. -/

@[simp] theorem State.writeLtoh_cfg (s : State) (w : Word) : (s.writeLtoh w).cfg = s.cfg := rfl
@[simp] theorem State.writeLtoh_eng (s : State) (w : Word) : (s.writeLtoh w).eng = s.eng := rfl
@[simp] theorem State.writeLtoh_seq (s : State) (w : Word) : (s.writeLtoh w).seq = s.seq := rfl
@[simp] theorem State.writeLtoh_mem (s : State) (w : Word) : (s.writeLtoh w).mem = s.mem := rfl
@[simp] theorem State.writeLtoh_host (s : State) (w : Word) : (s.writeLtoh w).host = s.host := rfl
@[simp] theorem State.writeLtoh_env (s : State) (w : Word) : (s.writeLtoh w).env = s.env := rfl

/-! `writeDc` changes bank, book only. -/

@[simp] theorem State.writeDc_cfg (s : State) (w : Word) : (s.writeDc w).cfg = s.cfg := rfl
@[simp] theorem State.writeDc_eng (s : State) (w : Word) : (s.writeDc w).eng = s.eng := rfl
@[simp] theorem State.writeDc_seq (s : State) (w : Word) : (s.writeDc w).seq = s.seq := rfl
@[simp] theorem State.writeDc_mem (s : State) (w : Word) : (s.writeDc w).mem = s.mem := rfl
@[simp] theorem State.writeDc_host (s : State) (w : Word) : (s.writeDc w).host = s.host := rfl
@[simp] theorem State.writeDc_env (s : State) (w : Word) : (s.writeDc w).env = s.env := rfl

/-! `detachLine` changes seq, book only. -/

@[simp] theorem State.detachLine_cfg (s : State) : s.detachLine.cfg = s.cfg := rfl
@[simp] theorem State.detachLine_bank (s : State) : s.detachLine.bank = s.bank := rfl
@[simp] theorem State.detachLine_eng (s : State) : s.detachLine.eng = s.eng := rfl
@[simp] theorem State.detachLine_mem (s : State) : s.detachLine.mem = s.mem := rfl
@[simp] theorem State.detachLine_host (s : State) : s.detachLine.host = s.host := rfl
@[simp] theorem State.detachLine_env (s : State) : s.detachLine.env = s.env := rfl

/-! `attachLine` changes seq, book only. -/

@[simp] theorem State.attachLine_cfg (s : State) (d : Nat) : (s.attachLine d).cfg = s.cfg := rfl
@[simp] theorem State.attachLine_bank (s : State) (d : Nat) : (s.attachLine d).bank = s.bank := rfl
@[simp] theorem State.attachLine_eng (s : State) (d : Nat) : (s.attachLine d).eng = s.eng := rfl
@[simp] theorem State.attachLine_mem (s : State) (d : Nat) : (s.attachLine d).mem = s.mem := rfl
@[simp] theorem State.attachLine_host (s : State) (d : Nat) : (s.attachLine d).host = s.host := rfl
@[simp] theorem State.attachLine_env (s : State) (d : Nat) : (s.attachLine d).env = s.env := rfl

/-! `driveEdge` changes eng only. -/

@[simp] theorem State.driveEdge_cfg (s : State) (mosi sclk : Bool) : (s.driveEdge mosi sclk).cfg = s.cfg := rfl
@[simp] theorem State.driveEdge_bank (s : State) (mosi sclk : Bool) : (s.driveEdge mosi sclk).bank = s.bank := rfl
@[simp] theorem State.driveEdge_seq (s : State) (mosi sclk : Bool) : (s.driveEdge mosi sclk).seq = s.seq := rfl
@[simp] theorem State.driveEdge_mem (s : State) (mosi sclk : Bool) : (s.driveEdge mosi sclk).mem = s.mem := rfl
@[simp] theorem State.driveEdge_host (s : State) (mosi sclk : Bool) : (s.driveEdge mosi sclk).host = s.host := rfl
@[simp] theorem State.driveEdge_book (s : State) (mosi sclk : Bool) : (s.driveEdge mosi sclk).book = s.book := rfl
@[simp] theorem State.driveEdge_env (s : State) (mosi sclk : Bool) : (s.driveEdge mosi sclk).env = s.env := rfl

/-! `store` changes bank, eng, book, env only. -/

@[simp] theorem State.store_cfg (s : State) : s.store.cfg = s.cfg := rfl
@[simp] theorem State.store_seq (s : State) : s.store.seq = s.seq := rfl
@[simp] theorem State.store_mem (s : State) : s.store.mem = s.mem := rfl
@[simp] theorem State.store_host (s : State) : s.store.host = s.host := rfl

/-! `issued` changes host only. -/

@[simp] theorem State.issued_cfg (s : State) (dst : Option Nat) : (s.issued dst).cfg = s.cfg := rfl
@[simp] theorem State.issued_bank (s : State) (dst : Option Nat) : (s.issued dst).bank = s.bank := rfl
@[simp] theorem State.issued_eng (s : State) (dst : Option Nat) : (s.issued dst).eng = s.eng := rfl
@[simp] theorem State.issued_seq (s : State) (dst : Option Nat) : (s.issued dst).seq = s.seq := rfl
@[simp] theorem State.issued_mem (s : State) (dst : Option Nat) : (s.issued dst).mem = s.mem := rfl
@[simp] theorem State.issued_book (s : State) (dst : Option Nat) : (s.issued dst).book = s.book := rfl
@[simp] theorem State.issued_env (s : State) (dst : Option Nat) : (s.issued dst).env = s.env := rfl

/-! `tick` changes env only. -/

@[simp] theorem State.tick_cfg (s : State) : s.tick.cfg = s.cfg := rfl
@[simp] theorem State.tick_bank (s : State) : s.tick.bank = s.bank := rfl
@[simp] theorem State.tick_eng (s : State) : s.tick.eng = s.eng := rfl
@[simp] theorem State.tick_seq (s : State) : s.tick.seq = s.seq := rfl
@[simp] theorem State.tick_mem (s : State) : s.tick.mem = s.mem := rfl
@[simp] theorem State.tick_host (s : State) : s.tick.host = s.host := rfl
@[simp] theorem State.tick_book (s : State) : s.tick.book = s.book := rfl

/-! `waited` changes env only. -/

@[simp] theorem State.waited_cfg (s : State) (a : Agent) : (s.waited a).cfg = s.cfg := rfl
@[simp] theorem State.waited_bank (s : State) (a : Agent) : (s.waited a).bank = s.bank := rfl
@[simp] theorem State.waited_eng (s : State) (a : Agent) : (s.waited a).eng = s.eng := rfl
@[simp] theorem State.waited_seq (s : State) (a : Agent) : (s.waited a).seq = s.seq := rfl
@[simp] theorem State.waited_mem (s : State) (a : Agent) : (s.waited a).mem = s.mem := rfl
@[simp] theorem State.waited_host (s : State) (a : Agent) : (s.waited a).host = s.host := rfl
@[simp] theorem State.waited_book (s : State) (a : Agent) : (s.waited a).book = s.book := rfl

/-! What the changed parts become, field by field. -/

@[simp] theorem State.waited_slave (s : State) (a : Agent) : (s.waited a).env.slave = s.env.slave := rfl
@[simp] theorem State.waited_supply (s : State) (a : Agent) : (s.waited a).env.supply = s.env.supply := rfl
@[simp] theorem State.waited_sched (s : State) (a : Agent) : (s.waited a).env.sched = s.env.sched := rfl
@[simp] theorem State.waited_fresh (s : State) (a : Agent) : (s.waited a).env.fresh = s.env.fresh := rfl
@[simp] theorem State.drawn_engineSince (s : State) : s.drawn.env.engineSince = s.env.engineSince := rfl
@[simp] theorem State.drawn_entrySince (s : State) : s.drawn.env.entrySince = s.env.entrySince := rfl
@[simp] theorem State.tick_engineSince (s : State) : s.tick.env.engineSince = s.env.engineSince := rfl
@[simp] theorem State.tick_entrySince (s : State) : s.tick.env.entrySince = s.env.entrySince := rfl
@[simp] theorem Params.base_mod_four (p : Params) : p.base % 4 = 0 := Nat.mul_mod_right 4 _
@[simp] theorem State.log_events (s : State) (e : Event) : (s.log e).book.events = s.book.events ++ [e] := rfl
@[simp] theorem State.log_faults (s : State) (e : Event) : (s.log e).book.faults = s.book.faults := rfl
@[simp] theorem State.log_refused (s : State) (e : Event) : (s.log e).book.refused = s.book.refused := rfl
@[simp] theorem State.drawn_slave (s : State) : s.drawn.env.slave = s.env.slave := rfl
@[simp] theorem State.drawn_sched (s : State) : s.drawn.env.sched = s.env.sched := rfl
@[simp] theorem State.tick_slave (s : State) : s.tick.env.slave = s.env.slave := rfl
@[simp] theorem State.tick_sched (s : State) : s.tick.env.sched = s.env.sched := rfl
@[simp] theorem State.tick_supply (s : State) : s.tick.env.supply = s.env.supply := rfl
@[simp] theorem State.tick_fresh (s : State) : s.tick.env.fresh = s.env.fresh + 1 := rfl
@[simp] theorem State.memStore_mem (s : State) (a : Nat) (v : Byte) :
    (s.memStore a v).mem = Memory.write s.mem a v := rfl
@[simp] theorem State.updateDev_devs (s : State) (d : Nat) (f : LogicalDevice → LogicalDevice) :
    (s.updateDev d f).seq.devs = s.seq.devs.modify d f := rfl
@[simp] theorem State.updateDev_irqAttached (s : State) (d : Nat) (f : LogicalDevice → LogicalDevice) :
    (s.updateDev d f).seq.irqAttached = s.seq.irqAttached := rfl
@[simp] theorem State.updateDev_irqCtx (s : State) (d : Nat) (f : LogicalDevice → LogicalDevice) :
    (s.updateDev d f).seq.irqCtx = s.seq.irqCtx := rfl
@[simp] theorem State.updateDev_ctx (s : State) (d : Nat) (f : LogicalDevice → LogicalDevice) :
    (s.updateDev d f).seq.ctx = s.seq.ctx := rfl
@[simp] theorem State.updateDev_ie (s : State) (d : Nat) (f : LogicalDevice → LogicalDevice) :
    (s.updateDev d f).seq.ie = s.seq.ie := rfl
@[simp] theorem State.updateDev_thread (s : State) (d : Nat) (f : LogicalDevice → LogicalDevice) :
    (s.updateDev d f).seq.thread = s.seq.thread := rfl
@[simp] theorem State.updateDev_intr (s : State) (d : Nat) (f : LogicalDevice → LogicalDevice) :
    (s.updateDev d f).seq.intr = s.seq.intr := rfl
@[simp] theorem State.setStack_devs (s : State) (l : List Frame) : (s.setStack l).seq.devs = s.seq.devs := rfl
@[simp] theorem State.setStack_irqAttached (s : State) (l : List Frame) :
    (s.setStack l).seq.irqAttached = s.seq.irqAttached := rfl
@[simp] theorem State.setStack_irqCtx (s : State) (l : List Frame) :
    (s.setStack l).seq.irqCtx = s.seq.irqCtx := rfl
@[simp] theorem State.setStack_ctx (s : State) (l : List Frame) : (s.setStack l).seq.ctx = s.seq.ctx := rfl
@[simp] theorem State.setStack_ie (s : State) (l : List Frame) : (s.setStack l).seq.ie = s.seq.ie := rfl
@[simp] theorem State.push_devs (s : State) (f : Frame) : (s.push f).seq.devs = s.seq.devs := rfl
@[simp] theorem State.push_irqAttached (s : State) (f : Frame) : (s.push f).seq.irqAttached = s.seq.irqAttached := rfl
@[simp] theorem State.push_irqCtx (s : State) (f : Frame) : (s.push f).seq.irqCtx = s.seq.irqCtx := rfl
@[simp] theorem State.push_ctx (s : State) (f : Frame) : (s.push f).seq.ctx = s.seq.ctx := rfl
@[simp] theorem State.push_ie (s : State) (f : Frame) : (s.push f).seq.ie = s.seq.ie := rfl
@[simp] theorem State.moveTo_devs (s : State) (f : Frame) : (s.moveTo f).seq.devs = s.seq.devs := rfl
@[simp] theorem State.moveTo_irqAttached (s : State) (f : Frame) : (s.moveTo f).seq.irqAttached = s.seq.irqAttached := rfl
@[simp] theorem State.moveTo_irqCtx (s : State) (f : Frame) : (s.moveTo f).seq.irqCtx = s.seq.irqCtx := rfl
@[simp] theorem State.moveTo_ctx (s : State) (f : Frame) : (s.moveTo f).seq.ctx = s.seq.ctx := rfl
@[simp] theorem State.moveTo_ie (s : State) (f : Frame) : (s.moveTo f).seq.ie = s.seq.ie := rfl
@[simp] theorem State.pop_devs (s : State) : s.pop.seq.devs = s.seq.devs := rfl
@[simp] theorem State.pop_irqAttached (s : State) : s.pop.seq.irqAttached = s.seq.irqAttached := rfl
@[simp] theorem State.pop_irqCtx (s : State) : s.pop.seq.irqCtx = s.seq.irqCtx := rfl
@[simp] theorem State.pop_ctx (s : State) : s.pop.seq.ctx = s.seq.ctx := rfl
@[simp] theorem State.pop_ie (s : State) : s.pop.seq.ie = s.seq.ie := rfl
@[simp] theorem State.enterInterrupt_devs (s : State) : s.enterInterrupt.seq.devs = s.seq.devs := rfl
@[simp] theorem State.enterInterrupt_irqAttached (s : State) : s.enterInterrupt.seq.irqAttached = s.seq.irqAttached := rfl
@[simp] theorem State.enterInterrupt_irqCtx (s : State) : s.enterInterrupt.seq.irqCtx = s.seq.irqCtx := rfl
@[simp] theorem State.enterInterrupt_thread (s : State) : s.enterInterrupt.seq.thread = s.seq.thread := rfl
@[simp] theorem State.enterInterrupt_intr (s : State) : s.enterInterrupt.seq.intr = [] := rfl
@[simp] theorem State.returnFromInterrupt_devs (s : State) : s.returnFromInterrupt.seq.devs = s.seq.devs := rfl
@[simp] theorem State.returnFromInterrupt_irqAttached (s : State) : s.returnFromInterrupt.seq.irqAttached = s.seq.irqAttached := rfl
@[simp] theorem State.returnFromInterrupt_irqCtx (s : State) : s.returnFromInterrupt.seq.irqCtx = s.seq.irqCtx := rfl
@[simp] theorem State.returnFromInterrupt_thread (s : State) : s.returnFromInterrupt.seq.thread = s.seq.thread := rfl
@[simp] theorem State.returnFromInterrupt_intr (s : State) : s.returnFromInterrupt.seq.intr = [] := rfl
@[simp] theorem State.enterInterrupt_ctx (s : State) : s.enterInterrupt.seq.ctx = .interrupt := rfl
@[simp] theorem State.enterInterrupt_ie (s : State) : s.enterInterrupt.seq.ie = false := rfl
@[simp] theorem State.returnFromInterrupt_ctx (s : State) : s.returnFromInterrupt.seq.ctx = .thread := rfl
@[simp] theorem State.returnFromInterrupt_ie (s : State) : s.returnFromInterrupt.seq.ie = true := rfl
@[simp] theorem State.readDone_rdata (s : State) (op : BusOp) (v : Word) : (s.readDone op v).host.rdata = v := rfl
@[simp] theorem State.readDone_events (s : State) (op : BusOp) (v : Word) :
    (s.readDone op v).book.events = s.book.events ++ [.bus op op.offset v] := rfl
@[simp] theorem State.writeDone_events (s : State) (op : BusOp) (w : Word) :
    (s.writeDone op w).book.events = s.book.events ++ [.bus op op.offset w] := rfl
@[simp] theorem State.readCs_rdata (s : State) : s.readCs.host.rdata = s.csRdata := rfl
@[simp] theorem State.readCs_events (s : State) :
    s.readCs.book.events = s.book.events ++ [.bus .csRead 0x00#8 s.csRdata] := rfl
@[simp] theorem State.writeClk_cdiv (s : State) (w : Word) : (s.writeClk w).bank.cdiv = w.extractLsb' 0 16 := rfl
@[simp] theorem State.writeClk_cs (s : State) (w : Word) : (s.writeClk w).bank.cs = s.bank.cs := rfl
@[simp] theorem State.writeDlen_dlen (s : State) (w : Word) : (s.writeDlen w).bank.dlen = w.extractLsb' 0 16 := rfl
@[simp] theorem State.writeDlen_cs (s : State) (w : Word) : (s.writeDlen w).bank.cs = s.bank.cs := rfl
@[simp] theorem State.writeLtoh_toh (s : State) (w : Word) : (s.writeLtoh w).bank.toh = w.extractLsb' 0 4 := rfl
@[simp] theorem State.writeLtoh_cs (s : State) (w : Word) : (s.writeLtoh w).bank.cs = s.bank.cs := rfl
@[simp] theorem State.writeDc_dc (s : State) (w : Word) : (s.writeDc w).bank.dc = w := rfl
@[simp] theorem State.writeDc_cs (s : State) (w : Word) : (s.writeDc w).bank.cs = s.bank.cs := rfl
@[simp] theorem State.store_cs (s : State) : s.store.bank.cs = s.bank.cs := rfl
@[simp] theorem State.store_busy (s : State) : s.store.eng.busy = false := rfl
@[simp] theorem State.store_txq (s : State) : s.store.eng.txq = s.eng.txq := rfl

end Sys2Proof.Machine
end

