-- ==== Sys2Proof/Laws/Ops.lean ====
section
/-! SUPPORT. One lemma for each shared operation that can stop or branch: what it did when it answered a next state,
and when it stopped. Later proofs cite these and do not unfold the operations. -/

namespace Sys2Proof.Machine

/-! ## Composing steps -/

@[simp] theorem andThen_next (s : State) (f : State → StepResult) : andThen (.next s) f = f s := rfl
@[simp] theorem andThen_fault (r : Fault) (f : State → StepResult) : andThen (.fault r) f = .fault r := rfl
@[simp] theorem andThen_refused (r : Refusal) (f : State → StepResult) : andThen (.refused r) f = .refused r := rfl

/-- A composed step answers next exactly when both parts do. -/
theorem andThen_eq_next {o : StepResult} {f : State → StepResult} {t : State} :
    andThen o f = .next t ↔ ∃ s, o = .next s ∧ f s = .next t := by
  cases o <;> simp

/-! ## Register transactions -/

/-- R141 to R144: a CS write that answers next met neither fault condition, and this is all it did. -/
theorem State.writeCs_next {s t : State} {w : Word} (h : s.writeCs w = .next t) :
    t = ({ s with
          bank.cs := w &&& csStored
          eng.txq := clearedBy w CLEAR_TX s.eng.txq
          eng.rxq := clearedBy w CLEAR_RX s.eng.rxq } : State).writeDone .csWrite w ∧
    ¬ (s.ta = true ∧ Word.has w TA = true ∧ w &&& csConfig ≠ s.bank.cs &&& csConfig) ∧
    ¬ (s.ta = true ∧ Word.has w TA = false ∧ s.eng.busy = true) := by
  unfold State.writeCs at h
  split at h
  · cases h
  · next h1 =>
    split at h
    · cases h
    · next h2 =>
      cases h
      refine ⟨rfl, ?_, ?_⟩
      · rintro ⟨a, b, c⟩
        exact h1 (by simp only [a, b, Bool.true_and, bne_iff_ne, ne_eq]; exact c)
      · rintro ⟨a, b, c⟩
        exact h2 (by simp [a, b, c])

/-- R141: where neither fault condition holds, the CS write completes. -/
theorem State.writeCs_of_ok {s : State} {w : Word}
    (h1 : ¬ (s.ta = true ∧ Word.has w TA = true ∧ w &&& csConfig ≠ s.bank.cs &&& csConfig))
    (h2 : ¬ (s.ta = true ∧ Word.has w TA = false ∧ s.eng.busy = true)) :
    s.writeCs w = .next
      (({ s with
          bank.cs := w &&& csStored
          eng.txq := clearedBy w CLEAR_TX s.eng.txq
          eng.rxq := clearedBy w CLEAR_RX s.eng.rxq } : State).writeDone .csWrite w) := by
  unfold State.writeCs
  rw [if_neg, if_neg]
  · intro h
    simp only [Bool.and_eq_true, Bool.not_eq_true'] at h
    exact h2 ⟨h.1.1, h.1.2, h.2⟩
  · intro h
    simp only [Bool.and_eq_true, bne_iff_ne] at h
    exact h1 ⟨h.1.1, h.1.2, h.2⟩

/-- R150: a FIFO write that answers next met no condition that stops it. -/
theorem State.writeFifo_next {s t : State} {w : Word} (h : s.writeFifo w = .next t) :
    t = ({ s with eng.txq := s.eng.txq ++ [w.extractLsb' 0 8] } : State).writeDone .fifoWrite w ∧
    s.dmaen = false ∧ s.ta = true ∧ s.len = false ∧ s.ren = false ∧ s.eng.txq.length ≠ s.cfg.fifoDepth := by
  unfold State.writeFifo at h
  split at h
  · cases h
  · split at h
    · cases h
    · split at h
      · cases h
      · split at h
        · cases h
        · split at h
          · cases h
          · cases h
            exact ⟨rfl, by simp_all, by simp_all, by simp_all, by simp_all, by assumption⟩

/-- R150: where nothing stops it, the FIFO write completes. -/
theorem State.writeFifo_of_ok {s : State} (w : Word) (h1 : s.dmaen = false) (h2 : s.ta = true) (h3 : s.len = false)
    (h4 : s.ren = false) (h5 : s.eng.txq.length ≠ s.cfg.fifoDepth) :
    s.writeFifo w =
      .next (({ s with eng.txq := s.eng.txq ++ [w.extractLsb' 0 8] } : State).writeDone .fifoWrite w) := by
  simp [State.writeFifo, h1, h2, h3, h4, h5]

/-- R154: a FIFO read that answers next met no condition that stops it. -/
theorem State.readFifo_next {s t : State} (h : s.readFifo = .next t) :
    t = ({ s.drawn with eng.rxq := s.eng.rxq.tail } : State).readDone .fifoRead s.fifoRdata ∧
    s.dmaen = false ∧ s.ta = true ∧ s.len = false ∧ s.ren = false := by
  unfold State.readFifo at h
  split at h
  · cases h
  · split at h
    · cases h
    · split at h
      · cases h
      · split at h
        · cases h
        · cases h
          exact ⟨rfl, by simp_all, by simp_all, by simp_all, by simp_all⟩

/-- R154: where nothing stops it, the FIFO read completes. -/
theorem State.readFifo_of_ok {s : State} (h1 : s.dmaen = false) (h2 : s.ta = true) (h3 : s.len = false)
    (h4 : s.ren = false) :
    s.readFifo =
      .next (({ s.drawn with eng.rxq := s.eng.rxq.tail } : State).readDone .fifoRead s.fifoRdata) := by
  simp [State.readFifo, h1, h2, h3, h4]

/-- R154: the low byte of RDATA is the oldest byte. -/
theorem State.fifoRdata_low {s : State} {b : Byte} {q : List Byte} (h : s.eng.rxq = b :: q) :
    s.fifoRdata.extractLsb' 0 8 = b := by
  unfold State.fifoRdata
  rw [h]
  apply BitVec.eq_of_getLsbD_eq
  intro i hi
  have hf : ∀ j, j < 8 → fifoFree.getLsbD j = false := by decide
  rw [BitVec.getLsbD_extractLsb', Nat.zero_add, BitVec.getLsbD_or, BitVec.getLsbD_and, hf i hi, zextByte,
    BitVec.getLsbD_setWidth]
  have h32 : i < 32 := by omega
  simp only [hi, h32, decide_true, Bool.true_and, Bool.and_false, Bool.or_false]

/-! ## Running operations -/

/-- The operations after a replacement. -/
@[simp] theorem State.stack_setStack (s : State) (l : List Frame) : (s.setStack l).stack = l := by
  unfold State.stack State.setStack
  cases s.seq.ctx <;> rfl

@[simp] theorem State.stack_push (s : State) (f : Frame) : (s.push f).stack = f :: s.stack := s.stack_setStack _
@[simp] theorem State.stack_moveTo (s : State) (f : Frame) : (s.moveTo f).stack = f :: s.stack.tail :=
  s.stack_setStack _
@[simp] theorem State.stack_pop (s : State) : s.pop.stack = s.stack.tail := s.stack_setStack _

/-- In thread context the thread's operations are the stack. -/
theorem State.stack_thread {s : State} (h : s.seq.ctx = .thread) : s.stack = s.seq.thread := by
  unfold State.stack; rw [h]

/-- In interrupt context the handler's operations are the stack. -/
theorem State.stack_interrupt {s : State} (h : s.seq.ctx = .interrupt) : s.stack = s.seq.intr := by
  unfold State.stack; rw [h]

/-- In thread context a replacement writes the thread's operations only. -/
theorem State.setStack_thread {s : State} (h : s.seq.ctx = .thread) (l : List Frame) :
    s.setStack l = { s with seq.thread := l } := by
  unfold State.setStack; rw [h]

/-- In interrupt context a replacement writes the handler's operations only. -/
theorem State.setStack_interrupt {s : State} (h : s.seq.ctx = .interrupt) (l : List Frame) :
    s.setStack l = { s with seq.intr := l } := by
  unfold State.setStack; rw [h]

/-- Who a result goes to: the operation that called. -/
theorem State.deliver_call {s : State} {f : Frame} {l : List Frame} (h : s.stack = f :: l) (r : OpResult) :
    s.deliver r = s.setStack (f.resume r :: l) := by
  unfold State.deliver; rw [h]

/-- Who a result goes to: the program (R320). -/
theorem State.deliver_program {s : State} (hc : s.seq.ctx = .thread) (h : s.stack = []) (r : OpResult) :
    s.deliver r = s.endCommand r := by
  unfold State.deliver; rw [h, hc]

/-- Who a result goes to: the return from interrupt (R341). -/
theorem State.deliver_return {s : State} (hc : s.seq.ctx = .interrupt) (h : s.stack = []) (r : OpResult) :
    s.deliver r = s.returnFromInterrupt := by
  unfold State.deliver; rw [h, hc]

/-- Everything a delivery can be. -/
theorem State.deliver_cases (s : State) (r : OpResult) :
    (∃ f l, s.stack = f :: l ∧ s.deliver r = s.setStack (f.resume r :: l)) ∨
    (s.seq.ctx = .thread ∧ s.stack = [] ∧ s.deliver r = s.endCommand r) ∨
    (s.seq.ctx = .interrupt ∧ s.stack = [] ∧ s.deliver r = s.returnFromInterrupt) := by
  cases h : s.stack with
  | cons f l => exact .inl ⟨f, l, rfl, State.deliver_call h r⟩
  | nil =>
    cases hc : s.seq.ctx with
    | thread => exact .inr (.inl ⟨rfl, rfl, State.deliver_program hc h r⟩)
    | interrupt => exact .inr (.inr ⟨rfl, rfl, State.deliver_return hc h r⟩)

/-- A delivery leaves registers, engine, memory, bookkeeping, configuration and environment as they are. -/
theorem State.deliver_keeps (s : State) (r : OpResult) :
    (s.deliver r).cfg = s.cfg ∧ (s.deliver r).bank = s.bank ∧ (s.deliver r).eng = s.eng ∧
    (s.deliver r).mem = s.mem ∧ (s.deliver r).book = s.book ∧ (s.deliver r).env = s.env ∧
    (s.deliver r).seq.devs = s.seq.devs ∧ (s.deliver r).seq.irqAttached = s.seq.irqAttached ∧
    (s.deliver r).seq.irqCtx = s.seq.irqCtx := by
  rcases s.deliver_cases r with ⟨f, l, -, h⟩ | ⟨-, -, h⟩ | ⟨-, -, h⟩ <;> rw [h] <;>
    exact ⟨rfl, rfl, rfl, rfl, rfl, rfl, rfl, rfl, rfl⟩

/-! ## Host variables (R22) -/

/-- A written variable holds its value, and no other variable changes. -/
theorem lookupVar_writeVar (l : List (Nat × HostVal)) (v : Nat) (x : HostVal) :
    lookupVar (writeVar l v x) v = some x ∧ ∀ k, k ≠ v → lookupVar (writeVar l v x) k = lookupVar l k := by
  induction l with
  | nil => exact ⟨by simp [writeVar, lookupVar], fun k hk => by simp [writeVar, lookupVar, Ne.symm hk]⟩
  | cons c l ih =>
    obtain ⟨k0, y⟩ := c
    simp only [writeVar]
    split
    · exact ⟨by simp [lookupVar], fun k hk => by simp [lookupVar, Ne.symm hk]⟩
    · split
      · next h => subst h; exact ⟨by simp [lookupVar], fun k hk => by simp [lookupVar, Ne.symm hk]⟩
      · next h => exact ⟨by simp [lookupVar, Ne.symm h, ih.1], fun k hk => by simp [lookupVar, ih.2 k hk]⟩

/-! ## Device records -/

/-- Changing a device that exists replaces its record. -/
theorem State.updateDev_set {s : State} {d : Nat} {D : LogicalDevice} (h : s.dev? d = some D)
    (f : LogicalDevice → LogicalDevice) :
    s.updateDev d f = { s with seq.devs := s.seq.devs.set d (f D) } := by
  unfold State.updateDev
  congr 2
  rw [List.modify_eq_set_getElem?]
  rw [show s.seq.devs[d]? = some D from h]
  rfl

/-! ## Busy-waits -/

/-- R102, R326: everything one poll can be. -/
theorem State.poll_cases (s : State) (flag : Word) (polls : Nat) (met : State → State) (again : Frame) :
    (Word.has s.csRdata flag = true ∧ s.poll flag polls met again = met s.readCs) ∨
    (Word.has s.csRdata flag = false ∧ (s.cfg.timeout = none ∨ ∃ k, s.cfg.timeout = some k ∧ polls + 1 < k) ∧
      s.poll flag polls met again = s.readCs.moveTo again) ∨
    (Word.has s.csRdata flag = false ∧ (∃ k, s.cfg.timeout = some k ∧ k ≤ polls + 1) ∧
      s.poll flag polls met again = s.readCs.finish .hardwareTimeout) := by
  unfold State.poll
  cases hf : Word.has s.csRdata flag with
  | true => simp
  | false =>
    cases ht : s.cfg.timeout with
    | none => simp
    | some k =>
      by_cases hk : k ≤ polls + 1
      · simp [hk]
      · have hk' : polls + 1 < k := by omega
        simp [hk, hk']

/-! ## The ENGINE -/

/-- R181: the mode guard stops nothing in standard mode. -/
theorem State.modeGuard_none {s : State} :
    s.modeGuard = none ↔ s.dmaen = false ∧ s.len = false ∧ s.ren = false := by
  unfold State.modeGuard
  cases s.dmaen <;> cases s.len <;> cases s.ren <;> simp

/-- R180: everything an ENGINE step that answers next can be. -/
theorem engineStep_next {s t : State} (h : engineStep s = .next t) :
    s.modeGuard = none ∧
    ((s.loadEnabled = true ∧ t = s.load) ∨
     (s.loadEnabled = false ∧ s.edgeEnabled = true ∧ t = s.edgeStep) ∨
     (s.loadEnabled = false ∧ s.edgeEnabled = false ∧ t = s.store)) := by
  unfold engineStep at h
  split at h
  · cases h
  · next hg =>
    refine ⟨hg, ?_⟩
    split at h
    · next hl => cases h; exact .inl ⟨hl, rfl⟩
    · next hl =>
      split at h
      · next he => cases h; exact .inr (.inl ⟨by simpa using hl, he, rfl⟩)
      · next he => cases h; exact .inr (.inr ⟨by simpa using hl, by simpa using he, rfl⟩)

/-- R190: what LOAD leaves alone, and what it takes. -/
theorem State.load_cons {s : State} {b : Byte} {q : List Byte} (h : s.eng.txq = b :: q) :
    ∃ m env, s.load =
      { s with
        eng := { s.eng with txq := q, shTx := b, shRx := 0x00#8, busy := true, edge := 0, sclk := s.cpol, mosi := m }
        env := env } ∧
      env.slave = s.env.slave ∧ env.sched = s.env.sched ∧
      (s.cpha = false → m = b.getLsbD 7 ∧ env = s.env) := by
  unfold State.load
  rw [h]
  cases hc : s.cpha with
  | true => exact ⟨_, s.drawn.env, by simp; rfl, rfl, rfl, by simp⟩
  | false => exact ⟨_, s.env, by simp; rfl, rfl, rfl, by simp⟩

/-- R191: an EDGE writes the shift register, the lines and the edge count, and may use a draw. -/
theorem State.edgeStep_frame (s : State) :
    ∃ shRx mosi sclk env, s.edgeStep =
      { s with
        eng := { s.eng with shRx := shRx, mosi := mosi, sclk := sclk, edge := s.eng.edge + 1 }
        env := env } ∧
      env.slave = s.env.slave ∧ env.sched = s.env.sched := by
  have hs (j : Nat) (k : Bool) : ∃ shRx mosi sclk env, s.sampleEdge j k =
      { s with
        eng := { s.eng with shRx := shRx, mosi := mosi, sclk := sclk, edge := s.eng.edge + 1 }
        env := env } ∧ env.slave = s.env.slave ∧ env.sched = s.env.sched := by
    unfold State.sampleEdge State.sampled
    cases hv : s.env.slave with
    | free => exact ⟨_, s.eng.mosi, _, s.drawn.env, rfl, hv, rfl⟩
    | loopback => exact ⟨_, s.eng.mosi, _, s.env, rfl, hv, rfl⟩
    | constant b => exact ⟨_, s.eng.mosi, _, s.env, rfl, hv, rfl⟩
  have hd (m k : Bool) : ∃ shRx mosi sclk env, s.driveEdge m k =
      { s with
        eng := { s.eng with shRx := shRx, mosi := mosi, sclk := sclk, edge := s.eng.edge + 1 }
        env := env } ∧ env.slave = s.env.slave ∧ env.sched = s.env.sched :=
    ⟨s.eng.shRx, _, _, s.env, rfl, rfl, rfl⟩
  unfold State.edgeStep
  dsimp only
  split
  · split
    · exact hd _ _
    · exact hs _ _
  · split
    · exact hs _ _
    · split
      · exact hd _ _
      · exact hd _ _

/-! ## The choice of agent and the step -/

/-- Which agents are enabled. -/
theorem State.mem_enabledAgents {s : State} {a : Agent} :
    a ∈ s.enabledAgents ↔
      (a = .host ∧ s.hostEnabled = true) ∨ (a = .engine ∧ s.engineEnabled = true) ∨
      (a = .delivery ∧ s.deliveryEnabled = true) := by
  unfold State.enabledAgents
  cases a <;> cases s.hostEnabled <;> cases s.engineEnabled <;> cases s.deliveryEnabled <;> simp

/-- The agent moved because it was due, or is any of the enabled. -/
theorem State.freeAgent_mem {s : State} {a b : Agent} {rest : List Agent} (h : s.enabledAgents = a :: b :: rest) :
    s.freeAgent a b rest ∈ s.enabledAgents := by
  unfold State.freeAgent
  split
  · next hd =>
    simp only [State.entryDue, State.entryEnabled, Bool.and_eq_true] at hd
    exact State.mem_enabledAgents.mpr (.inr (.inr ⟨rfl, hd.1.1⟩))
  · split
    · next hd =>
      simp only [State.engineDue, Bool.and_eq_true] at hd
      exact State.mem_enabledAgents.mpr (.inr (.inl ⟨rfl, hd.1⟩))
    · rw [h, List.getD_eq_getElem?_getD]
      have hlt : Config.freeChoice s.env.fresh % (rest.length + 2) < (a :: b :: rest).length := by
        simpa using Nat.mod_lt _ (Nat.succ_pos (rest.length + 1))
      rw [List.getElem?_eq_getElem hlt, Option.getD_some]
      exact List.getElem_mem hlt

/-- R7, R218: choosing an agent: the agent is enabled; where one alone is, it moves and uses no choice; where more are,
the head of the fixed choices is used up, or, with none left, the counter advances and the agent is `freeAgent`'s. -/
theorem State.chooseAgent_some {s s' : State} {a : Agent} (h : s.chooseAgent = some (a, s')) :
    a ∈ s.enabledAgents ∧
    ((s.enabledAgents = [a] ∧ s' = s.waited a) ∨
     (∃ x y rest, s.enabledAgents = x :: y :: rest ∧
       ((∃ c cs, s.env.sched = c :: cs ∧ s' = { s.waited a with env.sched := cs }) ∨
        (s.env.sched = [] ∧ a = s.freeAgent x y rest ∧ s' = { s.waited a with env.fresh := s.env.fresh + 1 })))) := by
  unfold State.chooseAgent at h
  split at h
  · cases h
  · next x hx => cases h; exact ⟨by rw [hx]; simp, .inl ⟨hx, rfl⟩⟩
  · next x y rest hx =>
    split at h
    · next c cs hs =>
      cases h
      refine ⟨?_, .inr ⟨x, y, rest, hx, .inl ⟨c, cs, hs, rfl⟩⟩⟩
      rw [hx]
      split
      · assumption
      · simp
    · next hs =>
      cases h
      exact ⟨State.freeAgent_mem hx, .inr ⟨x, y, rest, hx, .inr ⟨hs, rfl, rfl⟩⟩⟩

/-- R7: choosing an agent uses the fixed choices and the counters, and nothing else. -/
theorem State.chooseAgent_frame {s s' : State} {a : Agent} (h : s.chooseAgent = some (a, s')) :
    s' = { s with env := s'.env } ∧ s'.env.slave = s.env.slave ∧ s'.env.supply = s.env.supply := by
  obtain ⟨-, ⟨-, rfl⟩ | ⟨_, _, _, -, ⟨_, _, -, rfl⟩ | ⟨-, -, rfl⟩⟩⟩ := State.chooseAgent_some h <;>
    exact ⟨rfl, rfl, rfl⟩

/-- A step that answers next: nothing has ended the run, an enabled agent was chosen, and it took a step. -/
theorem step_next {s t : State} (h : step s = .next t) :
    s.runStop = none ∧ ∃ a s1 t1, s.chooseAgent = some (a, s1) ∧ agentStep a s1 = .next t1 ∧ t = t1.tick := by
  unfold step at h
  split at h
  · next o ho =>
    exfalso
    subst h
    unfold State.runStop at ho
    split at ho
    · cases ho
    · split at ho
      · cases ho
      · split at ho
        · cases ho
        · split at ho <;> cases ho
  · next hr =>
    refine ⟨hr, ?_⟩
    split at h
    · unfold State.endOfRun at h
      split at h <;> cases h
    · next a s1 hc =>
      obtain ⟨t1, h1, h2⟩ := andThen_eq_next.mp h
      cases h2
      exact ⟨a, s1, t1, hc, h1, rfl⟩

/-- R341, R344: delivery that answers next is an entry. -/
theorem deliveryStep_next {s t : State} (h : deliveryStep s = .next t) :
    s.seq.irqAttached = true ∧ t = s.enterInterrupt := by
  unfold deliveryStep at h
  split at h
  · next ha => cases h; exact ⟨ha, rfl⟩
  · cases h

/-- A run that may go on has nothing recorded. -/
theorem State.runStop_none {s : State} (h : s.runStop = none) :
    s.book.faults = [] ∧ s.book.refused = false ∧ s.cfg.valid = true ∧ s.callbacksInert = true := by
  unfold State.runStop at h
  split at h
  · cases h
  · next h1 =>
    split at h
    · cases h
    · next h2 =>
      split at h
      · cases h
      · next h3 =>
        split at h
        · cases h
        · next h4 =>
          refine ⟨?_, by simpa using h2, by simpa using h3, by simpa using h4⟩
          simpa using h1

end Sys2Proof.Machine
end

