-- ==== Sys2Proof/Laws/Env.lean ====
section
/-! SUPPORT. What a step does to the environment: at most one draw, whatever the agent and the operation; the fixed
choices and the waiting times are the choice of agent's alone. -/

namespace Sys2Proof.Machine

/-! ## Shared operations -/

@[simp] theorem State.deliver_env (s : State) (r : OpResult) : (s.deliver r).env = s.env := (s.deliver_keeps r).2.2.2.2.2.1
@[simp] theorem State.finish_env (s : State) (r : OpResult) : (s.finish r).env = s.env := by simp [State.finish]
/-- A CS write uses no draw. -/
theorem State.writeCs_env {s t : State} {w : Word} (h : s.writeCs w = .next t) : t.env = s.env := by
  rw [(State.writeCs_next h).1]; rfl
/-- A FIFO write uses no draw. -/
theorem State.writeFifo_env {s t : State} {w : Word} (h : s.writeFifo w = .next t) : t.env = s.env := by
  rw [(State.writeFifo_next h).1]; rfl
/-- A FIFO read uses one draw. -/
theorem State.readFifo_env {s t : State} (h : s.readFifo = .next t) : t.env = s.drawn.env := by
  rw [(State.readFifo_next h).1]; rfl
@[simp] theorem State.readCs_env (s : State) : s.readCs.env = s.drawn.env := rfl

/-! ## Meanings and agents -/

/-- R12: an instruction uses one draw or none. -/
theorem exec_env {i : Instr} {s t : State} (h : exec i s = .next t) : t.env = s.env ∨ t.env = s.drawn.env := by
  cases i with
  | csRead => cases h; exact .inr rfl
  | csWrite w => exact .inl (State.writeCs_env h)
  | fifoRead => exact .inr (State.readFifo_env h)
  | fifoWrite w => exact .inl (State.writeFifo_env h)
  | clkRead => cases h; exact .inr rfl
  | clkWrite w => cases h; exact .inl rfl
  | dlenRead => cases h; exact .inr rfl
  | dlenWrite w => cases h; exact .inl rfl
  | ltohRead => cases h; exact .inr rfl
  | ltohWrite w => cases h; exact .inl rfl
  | dcRead => cases h; exact .inl rfl
  | dcWrite w => cases h; exact .inl rfl
  | init => cases h; exact .inl rfl
  | select d c =>
    simp only [exec, execSelect] at h
    split at h
    · cases h
    · repeat' split at h
      all_goals cases h
      · exact .inl (s.deliver_env _)
      · exact .inr rfl
      · exact .inl rfl
      · exact .inr rfl
  | transfer d src dst n =>
    simp only [exec, execTransfer] at h
    split at h
    · cases h
    · split at h <;> cases h
      · exact .inr (by simp)
      · exact .inr rfl
  | pump d src dst tx rx =>
    simp only [exec, execPump] at h
    repeat' split at h
    all_goals cases h
    exact .inl rfl
  | irqHandler =>
    simp only [exec, execIrqHandler] at h
    repeat' split at h
    all_goals cases h
    exact .inr rfl

/-- PUMP. -/
theorem pumpAdvance_env {d : Nat} {src dst : Option Nat} {q : TransferRequest} {pos : PumpPos} {s t : State}
    (h : pumpAdvance d src dst q pos s = .next t) : t.env = s.env ∨ t.env = s.drawn.env := by
  have hp (flag : Word) (n : Nat) (met : State → State) (again : Frame) (hm : (met s.readCs).env = s.drawn.env) :
      (s.poll flag n met again).env = s.drawn.env := by
    rcases s.poll_cases flag n met again with ⟨-, h⟩ | ⟨-, -, h⟩ | ⟨-, -, h⟩ <;> rw [h]
    · exact hm
    · rfl
    · simp
  cases pos with
  | waitTxd n => cases h; exact .inr (hp _ _ _ _ rfl)
  | waitRxd n => cases h; exact .inr (hp _ _ _ _ rfl)
  | waitDone n => cases h; exact .inr (hp _ _ _ _ (by simp))
  | push => obtain ⟨u, h1, h2⟩ := andThen_eq_next.mp h; cases h2; exact .inl (by simpa using State.writeFifo_env h1)
  | pushFiller => obtain ⟨u, h1, h2⟩ := andThen_eq_next.mp h; cases h2; exact .inl (by simpa using State.writeFifo_env h1)
  | pop => obtain ⟨u, h1, h2⟩ := andThen_eq_next.mp h; cases h2; exact .inr (by simpa using State.readFifo_env h1)
  | store b => cases h; exact .inl rfl
  | drainRead => cases h; exact .inr rfl
  | drainPop => obtain ⟨u, h1, h2⟩ := andThen_eq_next.mp h; cases h2; exact .inr (by simpa using State.readFifo_env h1)

/-- SELECT. -/
theorem selectAdvance_env {d : Nat} {c : BitVec 2} {pos : SelectPos} {s t : State}
    (h : selectAdvance d c pos s = .next t) : t.env = s.env ∨ t.env = s.drawn.env := by
  unfold selectAdvance at h
  split at h
  · cases h
  · cases pos <;> dsimp only at h
    case attach => split at h <;> cases h <;> exact .inr (by first | rfl | simp)
    case enableRead => cases h; exact .inr rfl
    case modeRead => cases h; exact .inr rfl
    case modeSetRead => cases h; exact .inr rfl
    case chipRead => cases h; exact .inr rfl
    case divisor => cases h; exact .inl rfl
    all_goals
      obtain ⟨u, h1, h2⟩ := andThen_eq_next.mp h
      cases h2
      exact .inl (by simpa using State.writeCs_env h1)

/-- TRANSFER. -/
theorem transferAdvance_env {d : Nat} {src dst : Option Nat} {n : Word} {pos : TransferPos} {s t : State}
    (h : transferAdvance d src dst n pos s = .next t) : t.env = s.env ∨ t.env = s.drawn.env := by
  unfold transferAdvance at h
  cases pos <;> dsimp only at h
  case chunkPump => exact exec_env (i := .pump d src dst n n) h
  case polledPump => exact exec_env (i := .pump d src dst n n) h
  case armClear | armTa | taSet | clearWrite | release =>
    obtain ⟨u, h1, h2⟩ := andThen_eq_next.mp h
    cases h2
    exact .inl (by simpa using State.writeCs_env h1)
  case armClearRead | armTaRead | taRead | clearRead | releaseRead => cases h; exact .inr rfl
  case leaveCritical => split at h <;> cases h <;> exact .inl (by first | rfl | simp)
  all_goals cases h; exact .inl (by first | rfl | simp)

/-- IRQ_HANDLER. -/
theorem handlerAdvance_env {d : Nat} {pos : HandlerPos} {s t : State}
    (h : handlerAdvance d pos s = .next t) : t.env = s.env ∨ t.env = s.drawn.env := by
  unfold handlerAdvance at h
  split at h
  · cases h
  · next D _ =>
    cases pos <;> dsimp only at h
    case chunkA n => exact exec_env (i := .transfer d D.src D.dst n) h
    case chunkB n b => exact exec_env (i := .transfer d D.src D.dst n) h
    case afterA =>
      split at h <;> cases h
      · exact .inr rfl
      · exact .inl (by simp)
    case clearTa =>
      obtain ⟨u, h1, h2⟩ := andThen_eq_next.mp h
      cases h2
      exact .inl (by simpa using State.writeCs_env h1)
    case afterB => split at h <;> cases h <;> exact .inl (by first | rfl | simp)
    all_goals cases h; exact .inl (by first | rfl | simp)

/-- Whichever operation is running. -/
theorem advance_env {f : Frame} {s t : State} (h : advance f s = .next t) :
    t.env = s.env ∨ t.env = s.drawn.env := by
  cases f with
  | initF pos =>
    cases pos with
    | writeCs =>
      obtain ⟨u, h1, h2⟩ := andThen_eq_next.mp h
      cases h2
      exact .inl (by simpa using State.writeCs_env h1)
    | writeClk => cases h; exact .inl rfl
    | writeDlen => cases h; exact .inl (by simp)
  | selectF d c pos => exact selectAdvance_env h
  | transferF d src dst n pos => exact transferAdvance_env h
  | pumpF d src dst q pos => exact pumpAdvance_env h
  | handlerF d pos => exact handlerAdvance_env h

/-- An instruction that the program issues. -/
theorem issue_env {i : Instr} {dst : Option Nat} {s t : State} (h : issue i dst s = .next t) :
    t.env = s.env ∨ t.env = s.drawn.env := by
  obtain ⟨u, h1, h2⟩ := andThen_eq_next.mp h
  cases h2
  have hl : (u.lineDone i).env = u.env := by unfold State.lineDone; split <;> rfl
  rw [hl]
  exact (exec_env h1 : u.env = (s.issued dst).env ∨ u.env = (s.issued dst).drawn.env)

/-- A command line. -/
theorem runBytes_env {bytes : List Byte} {dst : Option Nat} {s t : State} (h : runBytes bytes dst s = .next t) :
    t.env = s.env ∨ t.env = s.drawn.env := by
  unfold runBytes at h
  split at h
  · exact issue_env h
  · next e _ => cases e <;> cases h

/-- The HOST. -/
theorem hostStep_env {s t : State} (h : hostStep s = .next t) : t.env = s.env ∨ t.env = s.drawn.env := by
  unfold hostStep at h
  split at h
  · exact advance_env h
  · exact exec_env h
  · split at h
    · next l _ =>
      cases l <;> simp only [runLine] at h
      case command => exact runBytes_env h
      case call => exact issue_env h
      case write => split at h <;> [exact runBytes_env h; cases h]
      case ifGoto => split at h <;> cases h; exact .inl rfl
      all_goals cases h; exact .inl rfl
    · cases h

/-- The ENGINE. -/
theorem engineStep_env {s t : State} (h : engineStep s = .next t) : t.env = s.env ∨ t.env = s.drawn.env := by
  have hs (j : Nat) (k : Bool) : (s.sampleEdge j k).env = s.env ∨ (s.sampleEdge j k).env = s.drawn.env := by
    unfold State.sampleEdge State.sampled
    cases s.env.slave with
    | free => exact .inr rfl
    | loopback => exact .inl rfl
    | constant b => exact .inl rfl
  rcases (engineStep_next h).2 with ⟨-, rfl⟩ | ⟨-, -, rfl⟩ | ⟨-, -, rfl⟩
  · unfold State.load
    split
    · exact .inl rfl
    · split
      · exact .inr rfl
      · exact .inl rfl
  · unfold State.edgeStep
    dsimp only
    repeat' split
    all_goals first | exact hs _ _ | exact .inl rfl
  · exact .inr rfl

/-- R12: a step of an agent uses one draw or none, and touches the environment in no other way. -/
theorem agentStep_env {a : Agent} {s t : State} (h : agentStep a s = .next t) :
    t.env = s.env ∨ t.env = s.drawn.env := by
  cases a with
  | host => exact hostStep_env h
  | engine => exact engineStep_env h
  | delivery => rw [(deliveryStep_next h).2]; exact .inl rfl

/-- A step of an agent leaves the fixed choices and the waiting times alone, and the counter never falls. -/
theorem agentStep_choices {a : Agent} {s t : State} (h : agentStep a s = .next t) :
    t.env.sched = s.env.sched ∧ t.env.engineSince = s.env.engineSince ∧ t.env.entrySince = s.env.entrySince ∧
    s.env.fresh ≤ t.env.fresh := by
  rcases agentStep_env h with h | h <;> rw [h]
  · exact ⟨rfl, rfl, rfl, Nat.le_refl _⟩
  · exact ⟨rfl, rfl, rfl, Nat.le_add_right _ _⟩

end Sys2Proof.Machine
end

