-- ==== Sys2Proof/Laws/Host.lean ====
section
/-! SUPPORT. Running the HOST alone: which operation its next step advances, runs step by step, and the CS writes of
read-modify-writes in terms of what they store. -/

namespace Sys2Proof.Machine

/-! ## Runs of the HOST -/

@[simp] theorem hostRun_zero (s : State) : hostRun 0 s = .next s := rfl
theorem hostRun_succ (n : Nat) (s : State) : hostRun (n + 1) s = andThen (hostStep s) (hostRun n) := rfl

/-- With an operation running, the HOST's step advances it. -/
theorem hostStep_running {s : State} {f : Frame} {l : List Frame} (h : s.stack = f :: l) :
    hostStep s = advance f s := by
  unfold hostStep; rw [h]

/-- In interrupt context with nothing running, the HOST's step starts IRQ_HANDLER (R341). -/
theorem hostStep_handler {s : State} (hc : s.seq.ctx = .interrupt) (h : s.seq.intr = []) :
    hostStep s = exec .irqHandler s := by
  unfold hostStep; rw [State.stack_interrupt hc, h, hc]

/-- In thread context with nothing running, the HOST's step takes the program's next line. -/
theorem hostStep_line {s : State} (hc : s.seq.ctx = .thread) (h : s.seq.thread = []) {l : HostLine}
    (hl : s.host.lines[s.host.pc]? = some l) : hostStep s = runLine l s := by
  unfold hostStep; rw [State.stack_thread hc, h, hc]
  simp only [hl]

/-! ## CS writes by what they store -/

/-- A CS write whose stored part is x, neither fault condition holding of x. -/
theorem State.writeCs_stores {s : State} {w x : Word} (hx : w &&& csStored = x)
    (h1 : s.bank.cs.getLsbD 7 = true → x.getLsbD 7 = true → x &&& csConfig = s.bank.cs &&& csConfig)
    (h2 : s.bank.cs.getLsbD 7 = true → s.eng.busy = true → x.getLsbD 7 = true) :
    s.writeCs w =
      .next (({ s with
          bank.cs := x
          eng.txq := if w.getLsbD 4 then [] else s.eng.txq
          eng.rxq := if w.getLsbD 5 then [] else s.eng.rxq } : State).writeDone .csWrite w) := by
  have h7 : x.getLsbD 7 = w.getLsbD 7 := by
    rw [← hx, BitVec.getLsbD_and, show csStored.getLsbD 7 = true from by decide, Bool.and_true]
  have hcfg : x &&& csConfig = w &&& csConfig := by
    rw [← hx, BitVec.and_assoc, show csStored &&& csConfig = csConfig from by decide]
  rw [State.writeCs_of_ok]
  · subst hx
    unfold clearedBy
    rw [has_CLEAR_TX, has_CLEAR_RX]
  · rintro ⟨a, b, c⟩
    rw [ta_eq] at a
    rw [has_TA] at b
    exact c (hcfg ▸ h1 a (h7 ▸ b))
  · rintro ⟨a, b, c⟩
    rw [ta_eq] at a
    rw [has_TA] at b
    have := h2 a c
    rw [h7, b] at this
    cases this

end Sys2Proof.Machine
end

