-- ==== Sys2Proof/Laws/Memory.lean ====
section
/-! SUPPORT. Host memory: every write keeps the canonical form, a read after a write, and equal reads of memories
in canonical form make equal memories. -/

namespace Sys2Proof.Machine

/-- A canonical list is canonical from any lower bound. -/
theorem Memory.wfFrom_mono {lo lo' : Nat} {m : List Host.Cell} (h : Memory.wfFrom lo m = true) (hl : lo' ≤ lo) :
    Memory.wfFrom lo' m = true := by
  cases m with
  | nil => rfl
  | cons c m =>
    obtain ⟨k, v⟩ := c
    simp only [Memory.wfFrom, Bool.and_eq_true, decide_eq_true_eq] at h ⊢
    exact ⟨⟨by omega, h.1.2⟩, h.2⟩

/-- Putting a cell before higher ones keeps the form. -/
theorem Memory.cons_wf {lo a : Nat} {v : Byte} {m : List Host.Cell} (ha : lo ≤ a)
    (h : Memory.wfFrom (a + 1) m = true) : Memory.wfFrom lo (Memory.cons a v m) = true := by
  unfold Memory.cons
  split
  · exact Memory.wfFrom_mono h (by omega)
  · next hv =>
    simp only [Memory.wfFrom, Bool.and_eq_true, decide_eq_true_eq]
    exact ⟨⟨ha, by simpa using hv⟩, h⟩

/-- A write keeps the form from any bound at or below its address. -/
theorem Memory.write_wfFrom (m : List Host.Cell) :
    ∀ (lo a : Nat) (v : Byte), lo ≤ a → Memory.wfFrom lo m = true → Memory.wfFrom lo (Memory.write m a v) = true := by
  induction m with
  | nil =>
    intro lo a v ha _
    exact Memory.cons_wf ha rfl
  | cons c m ih =>
    obtain ⟨k, x⟩ := c
    intro lo a v ha h
    have h' := h
    simp only [Memory.wfFrom, Bool.and_eq_true, decide_eq_true_eq] at h'
    simp only [Memory.write]
    split
    · next hak =>
      refine Memory.cons_wf ha ?_
      simp only [Memory.wfFrom, Bool.and_eq_true, decide_eq_true_eq]
      exact ⟨⟨hak, h'.1.2⟩, h'.2⟩
    · split
      · next hak =>
        subst hak
        exact Memory.cons_wf ha h'.2
      · simp only [Memory.wfFrom, Bool.and_eq_true, decide_eq_true_eq]
        exact ⟨h'.1, ih _ _ _ (by omega) h'.2⟩

/-- A write keeps the canonical form. -/
theorem Memory.write_wf {m : List Host.Cell} (h : Memory.wf m = true) (a : Nat) (v : Byte) :
    Memory.wf (Memory.write m a v) = true := Memory.write_wfFrom m 0 a v (Nat.zero_le a) h

/-- Memory with nothing listed is canonical. -/
theorem Memory.nil_wf : Memory.wf [] = true := rfl

/-- An address below the listed ones reads as unwritten. -/
theorem Memory.read_below {lo a : Nat} {m : List Host.Cell} (h : Memory.wfFrom lo m = true) (ha : a < lo) :
    Memory.read m a = Memory.unwritten := by
  induction m generalizing lo with
  | nil => rfl
  | cons c m ih =>
    obtain ⟨k, v⟩ := c
    simp only [Memory.wfFrom, Bool.and_eq_true, decide_eq_true_eq] at h
    simp only [Memory.read]
    rw [if_neg (by omega)]
    exact ih h.2 (by omega)

/-- Reading where a cell was put, or elsewhere. -/
theorem Memory.read_cons {a : Nat} {v : Byte} {m : List Host.Cell} (h : Memory.wfFrom (a + 1) m = true) (b : Nat) :
    Memory.read (Memory.cons a v m) b = if a = b then v else Memory.read m b := by
  unfold Memory.cons
  split
  · next hv =>
    split
    · next hb => rw [← hb, hv, Memory.read_below h (by omega)]
    · rfl
  · rfl

/-- A read after a write: the value at its address, everywhere else what was there. -/
theorem Memory.read_write_from (m : List Host.Cell) :
    ∀ (lo a : Nat) (v : Byte) (b : Nat), Memory.wfFrom lo m = true →
      Memory.read (Memory.write m a v) b = if a = b then v else Memory.read m b := by
  induction m with
  | nil =>
    intro lo a v b _
    exact Memory.read_cons (m := []) rfl b
  | cons c m ih =>
    obtain ⟨k, x⟩ := c
    intro lo a v b h
    have h' := h
    simp only [Memory.wfFrom, Bool.and_eq_true, decide_eq_true_eq] at h'
    simp only [Memory.write]
    split
    · next hak =>
      refine Memory.read_cons ?_ b
      simp only [Memory.wfFrom, Bool.and_eq_true, decide_eq_true_eq]
      exact ⟨⟨hak, h'.1.2⟩, h'.2⟩
    · split
      · next hak =>
        subst hak
        rw [Memory.read_cons h'.2 b]
        simp only [Memory.read]
        split <;> rfl
      · next hne =>
        simp only [Memory.read]
        rw [ih _ a v b h'.2]
        split
        · next hk => rw [if_neg (by omega)]
        · rfl

/-- A read after a write. -/
theorem Memory.read_write {m : List Host.Cell} (h : Memory.wf m = true) (a : Nat) (v : Byte) (b : Nat) :
    Memory.read (Memory.write m a v) b = if a = b then v else Memory.read m b :=
  Memory.read_write_from m 0 a v b h

/-- A read after a store of the machine (R95). -/
theorem State.memByte_memStore {s : State} (h : Memory.wf s.mem = true) (a : Nat) (v : Byte) (b : Nat) :
    (s.memStore a v).memByte b = if a = b then v else s.memByte b := Memory.read_write h a v b

/-- A store keeps the canonical form. -/
theorem State.memStore_wf {s : State} (h : Memory.wf s.mem = true) (a : Nat) (v : Byte) :
    Memory.wf (s.memStore a v).mem = true := Memory.write_wf h a v

/-- Canonical memories that read the same are the same list. -/
theorem Memory.ext_from (m : List Host.Cell) : ∀ (lo : Nat) (m' : List Host.Cell), Memory.wfFrom lo m = true →
    Memory.wfFrom lo m' = true → (∀ a, Memory.read m a = Memory.read m' a) → m = m' := by
  induction m with
  | nil =>
    intro lo m' _ h' hr
    cases m' with
    | nil => rfl
    | cons c m' =>
      obtain ⟨k, v⟩ := c
      have := hr k
      simp only [Memory.wfFrom, Bool.and_eq_true, decide_eq_true_eq] at h'
      simp only [Memory.read, if_true] at this
      simp [← this] at h'
  | cons c m ih =>
    obtain ⟨k, v⟩ := c
    intro lo m' h h' hr
    have hw := h
    simp only [Memory.wfFrom, Bool.and_eq_true, decide_eq_true_eq] at hw
    cases m' with
    | nil =>
      have := hr k
      simp only [Memory.read, if_true] at this
      simp [this] at hw
    | cons c' m' =>
      obtain ⟨k', v'⟩ := c'
      have hw' := h'
      simp only [Memory.wfFrom, Bool.and_eq_true, decide_eq_true_eq] at hw'
      rcases Nat.lt_trichotomy k k' with hlt | heq | hgt
      · have := hr k
        rw [Memory.read_below (lo := k') (m := (k', v') :: m') (by
          simp only [Memory.wfFrom, Bool.and_eq_true, decide_eq_true_eq]
          exact ⟨⟨Nat.le_refl _, hw'.1.2⟩, hw'.2⟩) hlt] at this
        simp only [Memory.read, if_true] at this
        simp [this] at hw
      · subst heq
        have hv := hr k
        simp only [Memory.read, if_true] at hv
        subst hv
        rw [ih (k + 1) m' hw.2 hw'.2]
        intro a
        rcases Nat.lt_or_ge k a with hka | hka
        · have := hr a
          simpa [Memory.read, Nat.ne_of_lt hka] using this
        · rw [Memory.read_below hw.2 (by omega), Memory.read_below hw'.2 (by omega)]
      · have := hr k'
        rw [Memory.read_below (lo := k) (m := (k, v) :: m) (by
          simp only [Memory.wfFrom, Bool.and_eq_true, decide_eq_true_eq]
          exact ⟨⟨Nat.le_refl _, hw.1.2⟩, hw.2⟩) hgt] at this
        simp only [Memory.read, if_true] at this
        simp [← this] at hw'

/-- Canonical memories that read the same are equal data. -/
theorem Memory.ext {m m' : List Host.Cell} (h : Memory.wf m = true) (h' : Memory.wf m' = true)
    (hr : ∀ a, Memory.read m a = Memory.read m' a) : m = m' := Memory.ext_from m 0 m' h h' hr

end Sys2Proof.Machine
end

