-- ==== Sys2Proof/Laws/PerInstr.lean ====
section
/-! SUPPORT. Statements made for each instruction. `CommandWord`: what an encoding begins with and how long it is
(R110, R119). -/

namespace Sys2Proof.Laws.CommandWord

/-- An encoding begins with the command word of R119, its items follow it, and a longest instruction holds it. -/
def Statement (i : Instr) : Prop :=
  take16 (encode i) = .ok (i.commandWord, i.items) ∧ (encode i).length ≤ longestInstr

/-- How the encoding begins, for every instruction. -/
theorem begins (i : Instr) : take16 (encode i) = .ok (i.commandWord, i.items) := take16_bytes16 _ _

/-- A buffer takes 9 bytes. -/
theorem bytesBuffer_length (b : Option Nat) : (bytesBuffer b).length = 9 := by cases b <;> rfl

theorem csRead : Statement .csRead := ⟨begins _, by decide⟩
theorem csWrite (w : Word) : Statement (.csWrite w) := ⟨begins _, by simp [encode, bytes16, Instr.items, bytes32, longestInstr]⟩
theorem fifoRead : Statement .fifoRead := ⟨begins _, by decide⟩
theorem fifoWrite (w : Word) : Statement (.fifoWrite w) := ⟨begins _, by simp [encode, bytes16, Instr.items, bytes32, longestInstr]⟩
theorem clkRead : Statement .clkRead := ⟨begins _, by decide⟩
theorem clkWrite (w : Word) : Statement (.clkWrite w) := ⟨begins _, by simp [encode, bytes16, Instr.items, bytes32, longestInstr]⟩
theorem dlenRead : Statement .dlenRead := ⟨begins _, by decide⟩
theorem dlenWrite (w : Word) : Statement (.dlenWrite w) := ⟨begins _, by simp [encode, bytes16, Instr.items, bytes32, longestInstr]⟩
theorem ltohRead : Statement .ltohRead := ⟨begins _, by decide⟩
theorem ltohWrite (w : Word) : Statement (.ltohWrite w) := ⟨begins _, by simp [encode, bytes16, Instr.items, bytes32, longestInstr]⟩
theorem dcRead : Statement .dcRead := ⟨begins _, by decide⟩
theorem dcWrite (w : Word) : Statement (.dcWrite w) := ⟨begins _, by simp [encode, bytes16, Instr.items, bytes32, longestInstr]⟩
theorem init : Statement .init := ⟨begins _, by decide⟩
theorem select (d : Nat) (c : Word) : Statement (.select d c) :=
  ⟨begins _, by simp [encode, bytes16, Instr.items, bytes32, longestInstr]⟩
theorem transfer (d : Nat) (src dst : Option Nat) (n : Word) : Statement (.transfer d src dst n) :=
  ⟨begins _, by simp [encode, bytes16, Instr.items, bytes32, longestInstr, bytesBuffer_length]⟩
theorem pump (d : Nat) (src dst : Option Nat) (txc rxc : Word) : Statement (.pump d src dst txc rxc) :=
  ⟨begins _, by simp [encode, bytes16, Instr.items, bytes32, longestInstr, bytesBuffer_length]⟩
theorem irqHandler : Statement .irqHandler := ⟨begins _, by decide⟩

end Sys2Proof.Laws.CommandWord
end

