-- ==== Sys2Proof/Machine/Assembler.lean ====
section
/-! DEFINITION. The host assembly syntax as host lines (R120), and the pseudo-instructions set, clr, poll and
drain (R122 to R125). Labels are line numbers: `at` is the number of an expansion's first line. The masks and values of
set, clr and poll are constants: R122 to R124 leave open whether they may be host variables or expressions (DESIGN CHOICE,
log 33). -/

namespace Sys2Proof.Machine

/-- The registers of R120's syntax. -/
inductive Reg where
  | CS | FIFO | CLK | DLEN | LTOH | DC
  deriving DecidableEq, Repr

/-- The read transaction of a register. -/
def Reg.readOp : Reg → BusOp
  | .CS => .csRead
  | .FIFO => .fifoRead
  | .CLK => .clkRead
  | .DLEN => .dlenRead
  | .LTOH => .ltohRead
  | .DC => .dcRead

/-- The write transaction of a register. -/
def Reg.writeOp : Reg → BusOp
  | .CS => .csWrite
  | .FIFO => .fifoWrite
  | .CLK => .clkWrite
  | .DLEN => .dlenWrite
  | .LTOH => .ltohWrite
  | .DC => .dcWrite

/-- `rd REG`, or `t <- rd REG` (R120). -/
def lineRd (r : Reg) (t : Option Nat) : HostLine := .command (bytes16 r.readOp.commandWord) t

/-- `wr REG, V` (R120). -/
def lineWr (r : Reg) (v : Expr) : HostLine := .write r.writeOp.commandWord v

/-- `call OP ..`, or `r <- call OP ..` (R120). Its arguments are constants: R120 gives host variables as operands to
`wr` only, and leaves open whether a `call` may name them (DESIGN CHOICE, log 33). The line holds the record itself, so
every device index and address is the one given: an index with no record is out of range (R114). -/
def lineCall (i : Instr) (r : Option Nat) : HostLine := .call i r

/-- R122: `set REG, M`, with t a fresh variable and M a constant (DESIGN CHOICE, log 33). -/
def lineSet (r : Reg) (m : Word) (t : Nat) : List HostLine :=
  [lineRd r (some t), lineWr r (.or (.var t) (.const m))]

/-- R123: `clr REG, M`, M a constant (DESIGN CHOICE, log 33). -/
def lineClr (r : Reg) (m : Word) (t : Nat) : List HostLine :=
  [lineRd r (some t), lineWr r (.and (.var t) (.not (.const m)))]

/-- R124: `poll CS, M, V`, M and V constants (DESIGN CHOICE, log 33). -/
def linePoll (m v : Word) (t : Nat) (at_ : Nat) : List HostLine :=
  [lineRd .CS (some t), .ifGoto (.ne (.and (.var t) (.const m)) (.const v)) at_]

/-- R125: `drain`. -/
def lineDrain (t : Nat) (at_ : Nat) : List HostLine :=
  [lineRd .CS (some t), .ifGoto (.eq (.and (.var t) (.const RXD)) (.const 0#32)) (at_ + 4),
   lineRd .FIFO none, .goto at_]

end Sys2Proof.Machine
end

