-- ==== Sys2Proof/Tests/Slice0.lean ====
section
/-! SUPPORT. Tests of one step each, their expected results from spec/95_test_vectors.md (the vector is named), from
the encoding tables of 30_encoding.md, or computed by hand from the rules; then one witness for the hypotheses of each
statement of Obligations.lean. -/

namespace Sys2Proof.Tests

open Sys2Proof Sys2Proof.Machine Sys2Proof.Spec

/-! ## Small states -/

/-- A device with no interrupt request (95_test_vectors.md). -/
def plain (mode : BitVec 2) (divisor : Half) : LogicalDevice :=
  { LogicalDevice.reset with mode := mode, divisor := divisor }

/-- A device that requests interrupt-on-done. -/
def onDone : LogicalDevice := { LogicalDevice.reset with irqDone := true }

/-- The quiescent state of 95_test_vectors.md with the loopback oracle, another CS, and fixed draws. -/
def quiet (cs : Word) : State :=
  { State.reset with
    bank := { cs := cs, cdiv := 0x0040#16, dlen := 0x0002#16, toh := 0x1#4, dc := 0x30203020#32 }
    eng := { txq := [], rxq := [], busy := false, shTx := 0x00#8, shRx := 0x00#8, edge := 0, sclk := false,
             mosi := false }
    env := { slave := .loopback, supply := List.replicate 8 0xFC5A5A5A#32, sched := [], fresh := 0,
             engineSince := 0, entrySince := 0 } }

/-- The quiescent state with device 0 as given. -/
def withDev (cs : Word) (D : LogicalDevice) : State := { quiet cs with seq.devs := [D, plain 0#2 0#16] }

/-- A state in interrupt context on an attached line, device 0 the context. -/
def inHandler (cs : Word) (D : LogicalDevice) (l : List Frame) : State :=
  { quiet cs with
    seq := { devs := [D, plain 0#2 0#16], irqAttached := true, irqCtx := some 0, ctx := .interrupt, ie := false,
             thread := [], intr := l } }

/-- The outcome is a next state with a property. -/
def goes (o : StepResult) (p : State → Bool) : Bool :=
  match o with
  | .next s => p s
  | .fault _ => false
  | .refused _ => false

/-- The outcome is this fault. -/
def faults (o : StepResult) (f : Fault) : Bool :=
  match o with
  | .next _ => false
  | .fault g => decide (g = f)
  | .refused _ => false

/-- The outcome is this refusal. -/
def refuses (o : StepResult) (r : Refusal) : Bool :=
  match o with
  | .next _ => false
  | .fault _ => false
  | .refused q => decide (q = r)

/-- An outcome with a property of its next state is a next state with it. -/
theorem goes_next {o : StepResult} {p : State → Bool} (h : goes o p = true) : ∃ t, o = .next t ∧ p t = true := by
  cases o with
  | next t => exact ⟨t, rfl, h⟩
  | fault r => cases h
  | refused r => cases h

/-- An outcome that is this fault. -/
theorem faults_eq {o : StepResult} {f : Fault} (h : faults o f = true) : o = .fault f := by
  cases o with
  | next t => cases h
  | fault g => rw [show g = f from of_decide_eq_true h]
  | refused r => cases h

/-- An outcome that is this refusal. -/
theorem refuses_eq {o : StepResult} {r : Refusal} (h : refuses o r = true) : o = .refused r := by
  cases o with
  | next t => cases h
  | fault g => cases h
  | refused q => rw [show q = r from of_decide_eq_true h]

/-- The low 26 bits of RDATA (bits 31:26 are a draw, R38). -/
def low26 (w : Word) : Word := w &&& 0x03FFFFFF#32

/-! ## WellFormed: one ill-formed term for each check -/

theorem test_wellFormed_refuses_wide_device : (Instr.select 4294967296 0#32).wellFormed = false := by decide
theorem test_wellFormed_refuses_wide_source :
    (Instr.transfer 0 (some 18446744073709551616) none 1#32).wellFormed = false := by decide
theorem test_wellFormed_refuses_wide_destination :
    (Instr.transfer 0 none (some 18446744073709551616) 1#32).wellFormed = false := by decide
theorem test_wellFormed_refuses_negative_tx_count :
    (Instr.pump 0 none none 0x80000000#32 1#32).wellFormed = false := by decide
theorem test_wellFormed_refuses_negative_rx_count :
    (Instr.pump 0 none none 1#32 0xFFFFFFFF#32).wellFormed = false := by decide

/-! ## Decoding: words written out from R111, R113 and R119, low byte first (log 4) -/

theorem test_decode_csRead : decode [0x00#8, 0x04#8] = .ok (.csRead, []) := by decide
theorem test_decode_csWrite :
    decode [0x00#8, 0x05#8, 0xB0#8, 0x00#8, 0x00#8, 0x80#8] = .ok (.csWrite 0x800000B0#32, []) := by decide
theorem test_decode_fifoRead : decode [0x04#8, 0x04#8] = .ok (.fifoRead, []) := by decide
theorem test_decode_fifoWrite :
    decode [0x04#8, 0x05#8, 0xA5#8, 0x01#8, 0x00#8, 0x00#8] = .ok (.fifoWrite 0x000001A5#32, []) := by decide
theorem test_decode_clkRead : decode [0x08#8, 0x04#8] = .ok (.clkRead, []) := by decide
theorem test_decode_clkWrite :
    decode [0x08#8, 0x05#8, 0x78#8, 0x56#8, 0x34#8, 0x12#8] = .ok (.clkWrite 0x12345678#32, []) := by decide
theorem test_decode_dlenRead : decode [0x0C#8, 0x04#8] = .ok (.dlenRead, []) := by decide
theorem test_decode_dlenWrite :
    decode [0x0C#8, 0x05#8, 0x02#8, 0x00#8, 0x01#8, 0x00#8] = .ok (.dlenWrite 0x00010002#32, []) := by decide
theorem test_decode_ltohRead : decode [0x10#8, 0x04#8] = .ok (.ltohRead, []) := by decide
theorem test_decode_ltohWrite :
    decode [0x10#8, 0x05#8, 0xFF#8, 0x00#8, 0x00#8, 0x00#8] = .ok (.ltohWrite 0x000000FF#32, []) := by decide
theorem test_decode_dcRead : decode [0x14#8, 0x04#8] = .ok (.dcRead, []) := by decide
theorem test_decode_dcWrite :
    decode [0x14#8, 0x05#8, 0xEF#8, 0xBE#8, 0xAD#8, 0xDE#8] = .ok (.dcWrite 0xDEADBEEF#32, []) := by decide
theorem test_decode_init : decode [0x01#8, 0x80#8] = .ok (.init, []) := by decide
theorem test_decode_select :
    decode [0x02#8, 0x80#8, 0x01#8, 0x00#8, 0x00#8, 0x00#8, 0x04#8, 0x00#8, 0x00#8, 0x00#8] =
      .ok (.select 1 4#32, []) := by decide
/-- R127: `call TRANSFER 0, A, B, -12`, here with A = 0x40 and B = none. -/
theorem test_decode_transfer :
    decode ([0x03#8, 0x80#8, 0x00#8, 0x00#8, 0x00#8, 0x00#8] ++
      [0x01#8, 0x40#8, 0x00#8, 0x00#8, 0x00#8, 0x00#8, 0x00#8, 0x00#8, 0x00#8] ++
      [0x00#8, 0x00#8, 0x00#8, 0x00#8, 0x00#8, 0x00#8, 0x00#8, 0x00#8, 0x00#8] ++
      [0xF4#8, 0xFF#8, 0xFF#8, 0xFF#8]) = .ok (.transfer 0 (some 64) none 0xFFFFFFF4#32, []) := by decide
theorem test_decode_pump :
    decode ([0x04#8, 0x80#8, 0x01#8, 0x00#8, 0x00#8, 0x00#8] ++
      [0x00#8, 0x00#8, 0x00#8, 0x00#8, 0x00#8, 0x00#8, 0x00#8, 0x00#8, 0x00#8] ++
      [0x01#8, 0x00#8, 0x01#8, 0x00#8, 0x00#8, 0x00#8, 0x00#8, 0x00#8, 0x00#8] ++
      [0x05#8, 0x00#8, 0x00#8, 0x00#8, 0x03#8, 0x00#8, 0x00#8, 0x00#8]) =
      .ok (.pump 1 none (some 256) 5#32 3#32, []) := by decide
theorem test_decode_irqHandler : decode [0x05#8, 0x80#8] = .ok (.irqHandler, []) := by decide
/-- B29 to B34: illegal words, the first of F8, F1, F2. -/
theorem test_decode_rejects :
    decode [0x00#8, 0x06#8] = .error (.busSize 0x0600#16) ∧ decode [0x18#8, 0x04#8] = .error (.busUnmapped 0x0418#16) ∧
    decode [0x02#8, 0x04#8] = .error (.busUnmapped 0x0402#16) ∧
    decode [0x18#8, 0x0A#8] = .error (.illegalOp 0x0A18#16) ∧ decode [0x00#8, 0x80#8] = .error (.illegalOp 0x8000#16) ∧
    decode [0x11#8, 0x80#8] = .error (.illegalOp 0x8011#16) := by decide
/-- A table word reads as its row's instruction, operand bits above it zero. -/
theorem test_decodeTableWord : decodeTableWord 16 0x0504 = some (.fifoWrite 0#32) := by decide

/-! ## BUS -/

/-- B1. -/
theorem test_csRead_at_reset :
    goes (exec .csRead { State.reset with env.supply := [0xFFFFFFFF#32] })
      (fun t => t.host.rdata == 0xFC041000#32) = true := by decide
/-- B3. -/
theorem test_csRead_active : low26 (quiet 0x80#32).csRdata = 0x00050080#32 := by decide
/-- B4. -/
theorem test_csWrite_ignores_flags_and_reserved :
    goes (exec (.csWrite 0xFC1F0030#32) { quiet 0#32 with eng.rxq := [0x11#8] })
      (fun t => t.bank.cs == 0#32 && t.eng.rxq == []) = true := by decide
/-- B9. -/
theorem test_csWrite_midByte :
    faults (exec (.csWrite 0#32) { quiet 0x80#32 with eng.busy := true }) (.taMidbyte 0x80#32 0#32) = true := by decide
/-- B18. -/
theorem test_fifoRead :
    goes (exec .fifoRead { quiet 0x80#32 with eng.rxq := [0x5A#8, 0x01#8] })
      (fun t => t.host.rdata.extractLsb' 0 8 == 0x5A#8 && t.eng.rxq == [0x01#8]) = true := by decide
/-- B20. -/
theorem test_fifoRead_inactive :
    faults (exec .fifoRead { quiet 0#32 with eng.rxq := [0x11#8] }) (.fifoInactive 0x0404#16) = true := by decide
/-- B12. -/
theorem test_fifoWrite :
    goes (exec (.fifoWrite 0x000001A5#32) (quiet 0x80#32)) (fun t => t.eng.txq == [0xA5#8] && !t.done) = true := by
  decide
/-- B14: X1 before F3. -/
theorem test_fifoWrite_dma : refuses (exec (.fifoWrite 0#32) (quiet 0x100#32)) .dmaMode = true := by decide
/-- R160. -/
theorem test_clkRead :
    goes (exec .clkRead (quiet 0#32)) (fun t => t.host.rdata == 0xFC5A0040#32) = true := by decide
/-- B22. -/
theorem test_clkWrite :
    goes (exec (.clkWrite 0x12345678#32) (quiet 0#32)) (fun t => t.bank.cdiv == 0x5678#16) = true := by decide
/-- R162. -/
theorem test_dlenRead :
    goes (exec .dlenRead (quiet 0#32)) (fun t => t.host.rdata == 0xFC5A0002#32) = true := by decide
/-- B23. -/
theorem test_dlenWrite :
    goes (exec (.dlenWrite 0x00010003#32) (quiet 0#32)) (fun t => t.bank.dlen == 0x0003#16) = true := by decide
/-- B25. -/
theorem test_ltohRead :
    goes (exec .ltohRead (quiet 0#32)) (fun t => t.host.rdata == 0xFC5A5A51#32) = true := by decide
/-- B26. -/
theorem test_ltohWrite :
    goes (exec (.ltohWrite 0x000000FF#32) (quiet 0#32)) (fun t => t.bank.toh == 0xF#4) = true := by decide
/-- B27. -/
theorem test_dcRead :
    goes (exec .dcRead (quiet 0#32)) (fun t => t.host.rdata == 0x30203020#32) = true := by decide
/-- B28. -/
theorem test_dcWrite :
    goes (exec (.dcWrite 0xDEADBEEF#32) (quiet 0#32)) (fun t => t.bank.dc == 0xDEADBEEF#32) = true := by decide

/-! ## The engine and the lines -/

/-- E1: LOAD. -/
theorem test_load :
    goes (engineStep { quiet 0x80#32 with eng.txq := [0x81#8] })
      (fun t => t.eng.shTx == 0x81#8 && t.eng.txq == [] && t.eng.busy && t.eng.mosi) = true := by decide
/-- E1: the edge of e = 13 drives bit 0. -/
theorem test_edge :
    goes (engineStep { quiet 0x80#32 with
        eng := { (quiet 0#32).eng with busy := true, edge := 13, shTx := 0x81#8 } })
      (fun t => t.eng.mosi && !t.eng.sclk && t.eng.edge == 14) = true := by decide
/-- E2: mode 1 samples on the trailing edge: e = 1 is bit 7. -/
theorem test_edge_mode1 :
    goes (engineStep { quiet 0x84#32 with
        eng := { (quiet 0#32).eng with busy := true, edge := 1, shTx := 0xC3#8, mosi := true } })
      (fun t => t.eng.shRx == 0x80#8 && !t.eng.sclk) = true := by decide
/-- E1: STORE. -/
theorem test_store :
    goes (engineStep { quiet 0x80#32 with
        eng := { (quiet 0#32).eng with busy := true, edge := 16, shTx := 0x81#8, shRx := 0x81#8 } })
      (fun t => t.eng.rxq == [0x81#8] && t.done && t.book.events == [.byte 0#2 0#2 0x81#8 0x81#8]) = true := by decide
/-- E7: chip-select lines, CSPOL = 0 and CS.CS = 1; CSPOL = 1 with its per-line bits and CS.CS = 2. -/
theorem test_csLine :
    (quiet 0x81#32).csLine 1 = false ∧ (quiet 0x81#32).csLine 0 = true ∧ (quiet 0x00E000C2#32).csLine 2 = true ∧
    (quiet 0x00E000C2#32).csLine 3 = false := by decide
/-- E8. -/
theorem test_irq : (quiet 0x280#32).irq = true ∧ (quiet 0x200#32).irq = false := by decide
/-- R185. -/
theorem test_effDivisor : effDivisor 0#16 = 65536 ∧ effDivisor 0x0041#16 = 64 := by decide

/-! ## SEQ -/

/-- S1: PINS, then CS_WRITE 0x30. -/
theorem test_init :
    goes (exec .init State.reset) (fun t => goes (hostStep t) fun u =>
      u.bank.cs == 0#32 && u.book.events == [.pins, .bus .csWrite 0x00#8 0x30#32]) = true := by decide
/-- V1.3: SELECT(d, −1). -/
theorem test_select_invalid :
    goes (exec (.select 0 0xFFFFFFFF#32) (quiet 0#32))
      (fun t => t.host.result == some .invalidArgument && t.book.events == []) = true := by decide
/-- S3, its last step: the chip select. -/
theorem test_select_chip :
    goes (advance (.selectF 0 1#2 (.chipWrite 0xFC04000E#32)) { quiet 0xC#32 with
        seq.thread := [.selectF 0 1#2 (.chipWrite 0xFC04000E#32)] })
      (fun t => t.bank.cs == 0x0000000D#32 && t.host.result == some .success && t.seq.thread == []) = true := by decide
/-- S16: count = −2^31. -/
theorem test_transfer_min :
    goes (exec (.transfer 0 none none 0x80000000#32) (quiet 0#32))
      (fun t => t.host.result == some .invalidArgument && t.book.events.length == 1) = true := by decide
/-- V1.5: the arm stores remaining = 12. -/
theorem test_transfer_arm :
    goes (advance (.transferF 0 (some 64) none 0xFFFFFFF4#32 .armRemaining) { withDev 0x200#32 onDone with
        seq.thread := [.transferF 0 (some 64) none 0xFFFFFFF4#32 .armRemaining] })
      (fun t => (t.seq.devs.map LogicalDevice.remaining) == [12, 0]) = true := by decide
/-- S10: PUMP of no bytes begins with the DLEN write and goes to its drain. -/
theorem test_pump_empty :
    goes (exec (.pump 0 none none 0#32 0#32) { quiet 0x80#32 with
        seq.thread := [.transferF 0 none none 0#32 (.polledPump true)] })
      (fun t => t.bank.dlen == 0x0002#16 &&
        t.stack.head? == some (.pumpF 0 none none { txCount := 0, rxCount := 0, tx := 0, rx := 0 } .drainRead)) =
      true := by decide
/-- R114: a program's own PUMP is X6. -/
theorem test_pump_program : refuses (exec (.pump 0 none none 1#32 1#32) (quiet 0#32)) .internalOp = true := by decide
/-- H1: branch A with n = 4. -/
theorem test_irqHandler_branchA :
    goes (exec .irqHandler (inHandler 0x280#32 { onDone with remaining := 12, src := some 64 } []))
      (fun t => t.seq.intr == [.handlerF 0 (.chunkA 4#32)]) = true := by decide
/-- H3: neither branch. -/
theorem test_irqHandler_none :
    goes (exec .irqHandler (inHandler 0x280#32 onDone []))
      (fun t => t.seq.intr == [.handlerF 0 .ret]) = true := by decide

/-! ## The step -/

/-- A table word placed at reset runs as the first instruction. -/
theorem test_step_runs_table_word :
    goes (step { State.reset.withFetchWord 16 0x0508 with env.sched := [] })
      (fun t => t.bank.cdiv == 0#16 && t.book.events == [.bus .clkWrite 0x08#8 0#32] && t.host.pc == 1) = true := by
  decide
/-- R406: DLEN.LEN is observed only as P_ERRATA_DLEN or 0. -/
theorem test_observe_dlen :
    (quiet 0#32).observe.dlenErrataOrZero = true ∧ { quiet 0#32 with bank.dlen := 5#16 }.observe.dlenErrataOrZero = false ∧
    { quiet 0#32 with bank.dlen := 0#16 }.observe.dlenErrataOrZero = true := by decide
/-- R218: an agent that moves waits from now on; one passed over keeps its time. -/
theorem test_waited :
    let s := { quiet 0x80#32 with eng.txq := [1#8], env := { (quiet 0#32).env with fresh := 9, engineSince := 4 } }
    (s.waited .engine).env.engineSince = 9 ∧ (s.waited .host).env.engineSince = 4 ∧
    (s.waited .host).env.entrySince = 9 := by decide
/-- R123: `clr CS, TA` writes what it read without TA. -/
theorem test_clr :
    goes (runLine (lineWr .CS (.and (.var 1) (.not (.const 0x80#32)))) { quiet 0x80#32 with
        host.vars := [(1, .word 0xFC050080#32)] })
      (fun t => t.bank.cs == 0#32 && t.book.events == [.bus .csWrite 0x00#8 0xFC050000#32]) = true := by decide
/-- R114: a device index beyond every record is F8, however large. -/
theorem test_call_wide_index :
    faults (runLine (lineCall (.select 4294967296 0#32) none) (withDev 0#32 onDone)) (.illegalOp 0x8002#16) = true := by
  decide
/-- R22: an unwritten variable. -/
theorem test_unwritten_variable :
    faults (runLine (lineWr .CS (.var 7)) (quiet 0#32)) (.unwrittenVariable 7) = true := by decide

/-! ## Witnesses: states and operands that meet the hypotheses of each statement -/

/-- The outcome is some next state. -/
theorem goes_some {o : StepResult} (h : goes o (fun _ => true) = true) : ∃ t, o = .next t :=
  (goes_next h).imp fun _ h => h.1

/-- The quiescent state is clean. -/
theorem clean_quiet : csClean (quiet 0#32) := by unfold csClean; decide

/-- DecodeOfEncodeIsTheInstruction, every field at its largest. -/
theorem witness_decode_encode :
    (Instr.pump 4294967295 (some 18446744073709551615) none 0x7FFFFFFF#32 0#32).wellFormed = true ∧
    (Instr.transfer 0 none (some 0) 0x80000000#32).wellFormed = true ∧
    (Instr.select 4294967295 0xFFFFFFFF#32).wellFormed = true := by decide

/-- IllegalEncodingsFaultInOrder, a word at each edge of each clause. -/
theorem witness_illegal_encodings :
    ((0x0C00#16).getLsbD 15 = false ∧ (0x0C00#16).extractLsb' 11 4 ≠ 0#4) ∧
    ((0x8010#16).getLsbD 15 = true ∧ (0x8010#16).extractLsb' 4 11 ≠ 0#11) ∧
    ((0x8000#16).getLsbD 15 = true ∧ (0x8000#16).extractLsb' 0 4 = 0x0#4) ∧
    ((0x8006#16).getLsbD 15 = true ∧ 6 ≤ ((0x8006#16).extractLsb' 0 4).toNat) ∧
    ((0x0600#16).getLsbD 15 = false ∧ (0x0600#16).extractLsb' 11 4 = 0#4 ∧ (0x0600#16).extractLsb' 9 2 ≠ 0b10#2) ∧
    ((0x0418#16).getLsbD 15 = false ∧ (0x0418#16).extractLsb' 11 4 = 0#4 ∧ (0x0418#16).extractLsb' 9 2 = 0b10#2 ∧
      (0x0418#16).extractLsb' 0 8 ∉ [0x00#8, 0x04#8, 0x08#8, 0x0C#8, 0x10#8, 0x14#8]) := by decide

/-- StepRunsTheDecodedInstruction, a command line, a `wr` line and a call line. -/
theorem witness_step_runs :
    (let s := (quiet 0#32).withFetchWord 16 0x0400
     s.runStop = none ∧ s.chooseAgent = some (.host, s) ∧ s.seq.ctx = .thread ∧ s.seq.thread = [] ∧
     s.host.lines[s.host.pc]? = some (.command (tableBytes 16 0x0400) none) ∧
     decode (tableBytes 16 0x0400) = .ok (.csRead, List.replicate 30 0x00#8) ∧ Instr.csRead.wellFormed = true) ∧
    (let s := { quiet 0#32 with host.lines := [.write 0x0508#16 (.const 3#32)] }
     s.runStop = none ∧ s.chooseAgent = some (.host, s) ∧
     s.host.lines[s.host.pc]? = some (.write 0x0508#16 (.const 3#32)) ∧
     evalExpr s.host.vars (.const 3#32) = .ok 3#32 ∧
     decode (bytes16 0x0508#16 ++ bytes32 3#32) = .ok (.clkWrite 3#32, [])) ∧
    (let s := { quiet 0#32 with host.lines := [.call .init none] }
     s.runStop = none ∧ s.chooseAgent = some (.host, s) ∧ s.host.lines[s.host.pc]? = some (.call .init none)) := by
  refine ⟨⟨rfl, ?_, rfl, rfl, rfl, by decide, rfl⟩, ⟨rfl, ?_, rfl, rfl, by decide⟩, rfl, ?_, rfl⟩ <;> decide

/-- A state in interrupt context, a transfer done, that meets the invariant. -/
theorem inv_inHandler : Inv (inHandler 0x280#32 { onDone with remaining := 12 } []) := by
  constructor <;> decide

/-- A quiescent state with a program meets the invariant. -/
theorem inv_program : Inv { quiet 0#32 with host.lines := [.cli] } := by
  constructor <;> decide

/-- StepKeepsTheInvariant: the handler's first step, and a program line. -/
theorem witness_step_keeps_inv :
    (∃ s s', Inv s ∧ step s = .next s' ∧ s.seq.ctx = .interrupt) ∧
    (∃ s s', Inv s ∧ step s = .next s' ∧ s.seq.ctx = .thread) := by
  obtain ⟨t, ht⟩ := goes_some
    (o := step (inHandler 0x280#32 { onDone with remaining := 12 } [])) (by decide)
  obtain ⟨u, hu⟩ := goes_some (o := step { quiet 0#32 with host.lines := [.cli] }) (by decide)
  exact ⟨⟨_, t, inv_inHandler, ht, rfl⟩, ⟨_, u, inv_program, hu, rfl⟩⟩

/-- RecordedFaultOrRefusalEndsTheRun, each clause; each code F1 to F8. -/
theorem witness_recorded :
    (∃ s : State, s.book.faults ≠ []) ∧
    (∃ s : State, s.book.faults = [] ∧ s.book.refused = true) ∧
    (∃ s s' : State, step s = .next s') ∧
    (∃ s : State, s.book.faults = [] ∧ step s = .fault (.fifoInactive 0x0404#16)) ∧
    (∃ s : State, step s = .refused .internalOp) ∧
    recordedAs (.busSize 0#16) .busSize ∧ recordedAs (.busUnmapped 0#16) .busUnmapped ∧
    recordedAs (.fifoInactive 0x0404#16) .fifoInactive ∧ recordedAs (.txOverflow 0#16 0#32) .txOverflow ∧
    recordedAs (.configActive 0#32 0#32) .configActive ∧ recordedAs (.taMidbyte 0#32 0#32) .taMidbyte ∧
    recordedAs (.unhandledIrq 0#32) .unhandledIrq ∧ recordedAs (.illegalOp 0#16) .illegalOp :=
  ⟨⟨(quiet 0#32).raise (.busSize 0#16), by decide⟩, ⟨(quiet 0#32).refuse, rfl, rfl⟩,
   ⟨_, goes_some (o := step ((quiet 0#32).withFetchWord 16 0x0400)) (by decide)⟩,
   ⟨(quiet 0#32).withFetchWord 16 0x0404, rfl, faults_eq (by decide)⟩,
   ⟨(quiet 0#32).withFetchWord 16 0x8005, refuses_eq (by decide)⟩,
   by simp [recordedAs], by simp [recordedAs], by simp [recordedAs], by simp [recordedAs], by simp [recordedAs],
   by simp [recordedAs], by simp [recordedAs], by simp [recordedAs]⟩

/-- InvalidConfigurationsAreRefused, each of the eight bounds, and a callback that acts. -/
theorem witness_invalid_configurations :
    (quiet 0#32).book.faults = [] ∧ (quiet 0#32).book.refused = false ∧
    { (quiet 0#32).cfg with rxrThreshold := 0 }.rxrThreshold < 1 ∧
    (quiet 0#32).cfg.fifoDepth < { (quiet 0#32).cfg with rxrThreshold := 65 }.rxrThreshold ∧
    { (quiet 0#32).cfg with txLowWater := 0 }.txLowWater < 1 ∧
    (quiet 0#32).cfg.fifoDepth < { (quiet 0#32).cfg with txLowWater := 65 }.txLowWater ∧
    { (quiet 0#32).cfg with rxHighWater := 0 }.rxHighWater < 1 ∧
    (quiet 0#32).cfg.fifoDepth < { (quiet 0#32).cfg with rxHighWater := 65 }.rxHighWater ∧
    { (quiet 0#32).cfg with errataDlen := 0#16 }.errataDlen = 0#16 ∧
    { (quiet 0#32).cfg with errataDlen := 1#16 }.errataDlen = 1#16 ∧
    (quiet 0#32).cfg.valid = true ∧
    (∃ D ∈ (withDev 0#32 { onDone with onSendComplete := .acting 5 }).seq.devs, ∃ n,
      D.onSendComplete = .acting n ∨ D.onDataReceived = .acting n) :=
  ⟨rfl, rfl, by decide, by decide, by decide, by decide, by decide, by decide, rfl, rfl, rfl, _, List.mem_cons_self, 5,
   .inl rfl⟩

/-- CsReadReturnsFieldsAndFlags, with every stored field set. -/
theorem witness_csClean : csClean (quiet 0x03E0FFCF#32) := by unfold csClean; decide

/-- CsWriteStoresFieldsAndClears: TA kept with an enable changed (B7), and TA cleared idle with a mode change (B10). -/
theorem witness_csWrite :
    (¬ ((quiet 0x80#32).bank.cs.getLsbD 7 = true ∧ (0x280#32).getLsbD 7 = true ∧
        0x280#32 &&& cfgBits ≠ (quiet 0x80#32).bank.cs &&& cfgBits) ∧
      ¬ (midByte (quiet 0x80#32) ∧ (0x280#32).getLsbD 7 = false)) ∧
    (¬ ((quiet 0x80#32).bank.cs.getLsbD 7 = true ∧ (0x08#32).getLsbD 7 = true ∧
        0x08#32 &&& cfgBits ≠ (quiet 0x80#32).bank.cs &&& cfgBits) ∧
      ¬ (midByte (quiet 0x80#32) ∧ (0x08#32).getLsbD 7 = false)) := by
  unfold midByte; decide

/-- CsWriteFaultsInOrder: B5 and B9. -/
theorem witness_csWrite_faults :
    ((quiet 0x80#32).bank.cs.getLsbD 7 = true ∧ (0x88#32).getLsbD 7 = true ∧
      0x88#32 &&& cfgBits ≠ (quiet 0x80#32).bank.cs &&& cfgBits) ∧
    ((0x00#32).getLsbD 7 = false ∧ { (quiet 0x80#32).eng with busy := true }.busy = true) := by decide

/-- ReadModifyWriteSetsExactlyItsBits: TA = 0 and a configuration bit, TA = 1 and an enable. -/
theorem witness_rmw :
    (csClean (quiet 0#32) ∧ 0x8C#32 &&& ~~~rwBits = 0#32 ∧ (quiet 0#32).bank.cs.getLsbD 7 = false) ∧
    (csClean (quiet 0x80#32) ∧ 0x600#32 &&& ~~~rwBits = 0#32 ∧ 0x600#32 &&& cfgBits = 0#32) := by
  unfold csClean; decide

/-- FifoWritePushesTheLowByte, FifoReadPopsTheOldestByte, FIFOs empty and not. -/
theorem witness_fifo :
    standardMode (quiet 0x80#32) ∧ (quiet 0x80#32).bank.cs.getLsbD 7 = true ∧
    (quiet 0x80#32).eng.txq.length ≠ (quiet 0x80#32).cfg.fifoDepth ∧
    { (quiet 0x80#32).eng with rxq := [0x5A#8, 0x01#8] }.rxq = 0x5A#8 :: [0x01#8] := by
  unfold standardMode; decide

/-- FifoAccessesStopInOrder: a CS word for each clause, and a full TX FIFO. -/
theorem witness_fifo_stops :
    (quiet 0x180#32).bank.cs.getLsbD 8 = true ∧
    ((quiet 0x00#32).bank.cs.getLsbD 8 = false ∧ (quiet 0x00#32).bank.cs.getLsbD 7 = false) ∧
    ((quiet 0x3080#32).bank.cs.getLsbD 8 = false ∧ (quiet 0x3080#32).bank.cs.getLsbD 7 = true ∧
      (quiet 0x3080#32).bank.cs.getLsbD 13 = true) ∧
    ((quiet 0x1080#32).bank.cs.getLsbD 8 = false ∧ (quiet 0x1080#32).bank.cs.getLsbD 7 = true ∧
      (quiet 0x1080#32).bank.cs.getLsbD 13 = false ∧ (quiet 0x1080#32).bank.cs.getLsbD 12 = true) ∧
    (standardMode (quiet 0x80#32) ∧ (List.replicate 64 0x00#8).length = (quiet 0x80#32).cfg.fifoDepth) := by
  unfold standardMode; decide

/-- IrqFallsOnlyByStateChange: each transaction completes, and a step after which IRQ has fallen. -/
theorem witness_irq_falls :
    (∃ t, exec .csRead (quiet 0x280#32) = .next t) ∧ (∃ t, exec (.fifoWrite 1#32) (quiet 0x280#32) = .next t) ∧
    (∃ t, exec (.csWrite 0x200#32) (quiet 0x280#32) = .next t ∧ (0x200#32).getLsbD 7 = false) ∧
    (∃ t, exec (.csWrite 0x80#32) (quiet 0x280#32) = .next t ∧ (0x80#32).getLsbD 9 = false ∧
      (0x80#32).getLsbD 10 = false) ∧
    (∃ t, exec .fifoRead { quiet 0x480#32 with eng.rxq := [0x0B#8] } = .next t ∧ t.eng.rxq.length < 48) ∧
    (∃ s t, step s = .next t ∧ s.irq = true ∧ t.irq = false) := by
  refine ⟨goes_some (by decide), goes_some (by decide), (goes_some (by decide)).imp fun _ h => ⟨h, by decide⟩,
    (goes_some (by decide)).imp fun _ h => ⟨h, by decide, by decide⟩, ?_, ?_⟩
  · obtain ⟨t, h1, h2⟩ := goes_next (o := exec .fifoRead { quiet 0x480#32 with eng.rxq := [0x0B#8] })
      (p := fun t => decide (t.eng.rxq.length < 48)) (by decide)
    exact ⟨t, h1, by simpa using h2⟩
  · obtain ⟨t, h1, h2⟩ := goes_next
      (o := step { quiet 0x280#32 with
        seq.ie := false, host.lines := [.write 0x0504#16 (.const 1#32)], env.sched := [.host] })
      (p := fun t => !t.irq) (by decide)
    exact ⟨_, t, h1, by decide, by simpa using h2⟩

/-- EngineLoadAndEdgeDriveTheLines, LoopbackByteComesBack, OneByteReceivedPerByteSent: a byte to send, in mode 0; the
first and the last edge of a byte; a full RX FIFO under either policy. -/
theorem witness_engine_byte :
    let s := { quiet 0x80#32 with eng := { (quiet 0#32).eng with txq := [0x81#8, 0x02#8] } }
    let full := List.replicate 64 0x00#8
    standardMode s ∧ s.bank.cs.getLsbD 7 = true ∧ s.eng.busy = false ∧ s.eng.txq = 0x81#8 :: [0x02#8] ∧
    s.eng.rxq.length < s.cfg.fifoDepth ∧ s.env.slave = .loopback ∧ s.bank.cs.getLsbD 2 = false ∧
    { s.env with slave := .constant 0x3C#8 }.slave = .constant 0x3C#8 ∧
    { s.eng with busy := true, edge := 0 }.edge < 16 ∧ { s.eng with busy := true, edge := 15 }.edge < 16 ∧
    s.cfg.fifoDepth ≤ { s.eng with rxq := full }.rxq.length ∧ s.cfg.rxFullPolicy = .stall ∧
    { s.cfg with rxFullPolicy := .drop }.rxFullPolicy = .drop := by
  unfold standardMode; decide

/-- EngineModeGuardRefuses: TA = 0; an enabled LOAD in each of the four modes. -/
theorem witness_mode_guard :
    (quiet 0#32).bank.cs.getLsbD 7 = false ∧
    ({ quiet 0x180#32 with eng.txq := [1#8] }.engineEnabled = true ∧ (0x180#32).getLsbD 8 = true) ∧
    ({ quiet 0x2080#32 with eng.txq := [1#8] }.engineEnabled = true ∧ (0x2080#32).getLsbD 13 = true) ∧
    ({ quiet 0x1080#32 with eng.txq := [1#8] }.engineEnabled = true ∧ (0x1080#32).getLsbD 12 = true) ∧
    ({ quiet 0x80#32 with eng.txq := [1#8] }.engineEnabled = true ∧ standardMode (quiet 0x80#32)) := by
  unfold standardMode; decide

/-- EngineWritesOnlyItsOwnState: LOAD, EDGE and STORE each complete. -/
theorem witness_engine_writes :
    (∃ t, engineStep { quiet 0x80#32 with eng.txq := [1#8] } = .next t) ∧
    (∃ t, engineStep { quiet 0x80#32 with eng := { (quiet 0#32).eng with busy := true, edge := 3 } } = .next t) ∧
    (∃ t, engineStep { quiet 0x80#32 with eng := { (quiet 0#32).eng with busy := true, edge := 16 } } = .next t) :=
  ⟨goes_some (by decide), goes_some (by decide), goes_some (by decide)⟩

/-- ChipSelectLinesFollowCs: both polarities, TA = 0 and TA = 1, the last index with a line of its own; line 3, and line
0 where only line 1 differs (E7, last row). -/
theorem witness_lines :
    (∀ n : Fin 4, n.val < 3 → (quiet 0x82#32).bank.cs.getLsbD (21 + n.val) = (quiet 0x82#32).bank.cs.getLsbD 6) ∧
    (∀ n : Fin 4, n.val < 3 →
      (quiet 0x00E00040#32).bank.cs.getLsbD (21 + n.val) = (quiet 0x00E00040#32).bank.cs.getLsbD 6) ∧
    ((quiet 0x00400080#32).bank.cs.getLsbD (21 + 0) = (quiet 0x00400080#32).bank.cs.getLsbD 6 ∧
      (quiet 0x00400080#32).bank.cs.getLsbD (21 + 1) ≠ (quiet 0x00400080#32).bank.cs.getLsbD 6) ∧
    (quiet 0x82#32).bank.cs.getLsbD 7 = true ∧ ((quiet 0x82#32).bank.cs.extractLsb' 0 2).toNat < 3 ∧
    (quiet 0x00E00040#32).bank.cs.getLsbD 7 = false ∧ (quiet 0x82#32).eng.busy = false := by decide

/-- InitializeReachesTheQuiescentState: a byte in flight and none. -/
theorem witness_init :
    idle (quiet 0x80#32) ∧ ¬ midByte (quiet 0x80#32) ∧ midByte { quiet 0x80#32 with eng.busy := true } := by
  unfold idle midByte; decide

/-- SelectRejectsInvalidChipSelect: 4, −1 and −2^31. -/
theorem witness_select_invalid :
    idle (quiet 0#32) ∧ (quiet 0#32).dev? 1 = some LogicalDevice.reset ∧
    ¬ (0 ≤ (4#32).toInt ∧ (4#32).toInt ≤ 3) ∧ ¬ (0 ≤ (0xFFFFFFFF#32).toInt ∧ (0xFFFFFFFF#32).toInt ≤ 3) ∧
    ¬ (0 ≤ (0x80000000#32).toInt ∧ (0x80000000#32).toInt ≤ 3) := by
  unfold idle; decide

/-- SelectConfiguresAPlainDevice: TA = 0 (mode 3, a divisor, index 3), and selectQuiet by its other side, TA = 1 with
nothing to change. -/
theorem witness_select_plain :
    (idle (withDev 0#32 (plain 3#2 5#16)) ∧ csClean (withDev 0#32 (plain 3#2 5#16)) ∧
      (withDev 0#32 (plain 3#2 5#16)).dev? 0 = some (plain 3#2 5#16) ∧ 0 ≤ (3#32).toInt ∧ (3#32).toInt ≤ 3 ∧
      (plain 3#2 5#16).irqDone = false ∧ (plain 3#2 5#16).irqRecv = false ∧
      (withDev 0#32 (plain 3#2 5#16)).seq.irqAttached = false ∧
      selectQuiet (withDev 0#32 (plain 3#2 5#16)) (plain 3#2 5#16) 3#32) ∧
    (withDev 0x81#32 (plain 0#2 0#16)).bank.cs.getLsbD 7 = true ∧
    selectQuiet (withDev 0x81#32 (plain 0#2 0#16)) (plain 0#2 0#16) 1#32 := by
  unfold idle csClean selectQuiet; decide

/-- SelectWhileActiveFaults: each clause's CS and device, TA = 1: no interrupt request with the line attached and not; a
request with an enable set, and with none and the attach agreed. -/
theorem witness_select_active :
    (idle (withDev 0x84#32 (plain 0#2 0#16)) ∧ csClean (withDev 0x84#32 (plain 0#2 0#16)) ∧
      (withDev 0x84#32 (plain 0#2 0#16)).dev? 0 = some (plain 0#2 0#16) ∧ 0 ≤ (1#32).toInt ∧ (1#32).toInt ≤ 3 ∧
      (0x84#32).getLsbD 7 = true ∧ (0x84#32).extractLsb' 2 2 ≠ 0#2 ∧ (plain 0#2 0#16).irqDone = false) ∧
    ((withDev 0x80#32 (plain 2#2 0#16)).dev? 0 = some (plain 2#2 0#16) ∧ (0x80#32).extractLsb' 2 2 = 0#2 ∧
      (plain 2#2 0#16).mode ≠ 0#2) ∧
    (0x80#32).extractLsb' 0 2 ≠ (1#32).extractLsb' 0 2 ∧
    { (withDev 0#32 onDone).seq with irqAttached := true }.irqAttached = true ∧
    (onDone.irqDone = true ∧ onDone.mode = 0#2 ∧ (0x280#32).getLsbD 9 = true ∧ (0x280#32).getLsbD 7 = true) ∧
    goes (exec (.select 0 1#32) { withDev 0x80#32 onDone with env.supply := [0#32, 1#32] }) (·.attachOk) = true := by
  unfold idle csClean; decide

/-- SelectDetachesForAPlainDevice. -/
theorem witness_select_detach :
    let s := { withDev 0x200#32 (plain 0#2 0#16) with seq := { (withDev 0#32 (plain 0#2 0#16)).seq with
                 irqAttached := true, irqCtx := some 1 } }
    idle s ∧ s.dev? 0 = some (plain 0#2 0#16) ∧ 0 ≤ (0#32).toInt ∧ (0#32).toInt ≤ 3 ∧
    (plain 0#2 0#16).irqDone = false ∧ (plain 0#2 0#16).irqRecv = false ∧ s.seq.irqAttached = true ∧
    csClean s ∧ selectQuiet s (plain 0#2 0#16) 0#32 := by
  unfold idle csClean selectQuiet; decide

/-- SelectAttachesOrReportsFailure: the collaborator's answer is the draw after the CS read's, fail and ok. -/
theorem witness_select_attach :
    (idle (withDev 0#32 onDone) ∧ csClean (withDev 0#32 onDone) ∧ (withDev 0#32 onDone).dev? 0 = some onDone ∧
      (onDone.irqDone = true ∨ onDone.irqRecv = true) ∧ (withDev 0#32 onDone).bank.cs.getLsbD 9 = false ∧
      (withDev 0#32 onDone).bank.cs.getLsbD 10 = false ∧ selectQuiet (withDev 0#32 onDone) onDone 3#32) ∧
    goes (exec (.select 0 3#32) { withDev 0#32 onDone with env.supply := [0#32, 0#32] }) (fun t => !t.attachOk) =
      true ∧
    goes (exec (.select 0 3#32) { withDev 0#32 onDone with env.supply := [0#32, 1#32] }) (·.attachOk) = true := by
  unfold idle csClean selectQuiet; decide

/-- SelectKeepsTheAttachedContext: INTD set, and INTR set (S7). -/
theorem witness_select_keep :
    idle (withDev 0x200#32 onDone) ∧ csClean (withDev 0x200#32 onDone) ∧
    (withDev 0x200#32 onDone).dev? 0 = some onDone ∧
    ((withDev 0x200#32 onDone).bank.cs.getLsbD 9 = true ∨ (withDev 0x200#32 onDone).bank.cs.getLsbD 10 = true) ∧
    ((withDev 0x400#32 onDone).bank.cs.getLsbD 9 = true ∨ (withDev 0x400#32 onDone).bank.cs.getLsbD 10 = true) ∧
    selectQuiet (withDev 0x200#32 onDone) onDone 2#32 ∧ selectQuiet (withDev 0x400#32 onDone) onDone 2#32 := by
  unfold idle csClean selectQuiet; decide

/-- DeviceIndexOutOfRangeFaults: the first index with no record. -/
theorem witness_device_index : (quiet 0#32).seq.devs.length ≤ 2 := by decide

/-- TransferWithDmaEnabledIsUnsupported. -/
theorem witness_transfer_dma :
    idle (quiet 0x100#32) ∧ csClean (quiet 0x100#32) ∧ (quiet 0x100#32).dev? 0 = some LogicalDevice.reset ∧
    (quiet 0x100#32).bank.cs.getLsbD 8 = true := by
  unfold idle csClean; decide

/-- TransferRejectsTheMinimumCount; NegativeCountArmsTheDevice at both ends of its range. -/
theorem witness_transfer_negative :
    (idle (withDev 0#32 onDone) ∧ csClean (withDev 0#32 onDone) ∧ (withDev 0#32 onDone).dev? 0 = some onDone ∧
      (withDev 0#32 onDone).bank.cs.getLsbD 8 = false) ∧ (0x80000000#32).toInt = -2147483648 ∧
    ((0xFFFFFFFF#32).toInt < 0 ∧ (0xFFFFFFFF#32).toInt ≠ -2147483648) ∧
    ((0x80000001#32).toInt < 0 ∧ (0x80000001#32).toInt ≠ -2147483648) := by
  unfold idle csClean; decide

/-- PolledTransferReachesItsPump and PolledTransferOfNoBytesCompletes: count 0, and a count with no buffers. -/
theorem witness_transfer_polled :
    (idle (quiet 0#32) ∧ csClean (quiet 0#32) ∧ (quiet 0#32).dev? 0 = some LogicalDevice.reset ∧
      (quiet 0#32).bank.cs.getLsbD 8 = false ∧ LogicalDevice.reset.irqDone = false ∧
      LogicalDevice.reset.irqRecv = false ∧ (quiet 0#32).eng.busy = false) ∧
    0 ≤ (0#32).toInt ∧ 0 ≤ (0x7FFFFFFF#32).toInt := by
  unfold idle csClean; decide

/-- PolledTransferEndsWithTaCleared. -/
theorem witness_transfer_end :
    let s : State := { quiet 0x80#32 with seq.thread := [.transferF 0 none (some 8) 3#32 (.leaveCritical true false)] }
    csClean s ∧ ¬ midByte s ∧ s.seq.ctx = .thread ∧
    s.seq.thread = [.transferF 0 none (some 8) 3#32 (.leaveCritical true false)] := by
  unfold csClean midByte; decide

/-- ReentrantChunkUpdatesTheDevice: its start; the last chunk of 4 bytes for either branch of the handler; a program's. -/
theorem witness_chunk :
    let D := { onDone with remaining := 4, src := some 64 }
    let f := Frame.transferF 0 (some 64) none 4#32 (.chunkRemaining 4)
    let s := inHandler 0x280#32 D [f, .handlerF 0 (.chunkA 4#32)]
    (idle (withDev 0x280#32 D) ∧ csClean (withDev 0x280#32 D) ∧ (withDev 0x280#32 D).dev? 0 = some D ∧
      (withDev 0x280#32 D).bank.cs.getLsbD 8 = false ∧ 0 ≤ (4#32).toInt ∧ (D.irqDone = true ∨ D.irqRecv = true)) ∧
    (s.dev? 0 = some D ∧ inInt32 (D.remaining - 4) = true ∧ s.seq.ctx = .interrupt ∧
      s.seq.intr = [f, .handlerF 0 (.chunkA 4#32)]) ∧
    (inHandler 0x480#32 D [f, .handlerF 0 (.chunkB 4#32 4)]).seq.intr = [f, .handlerF 0 (.chunkB 4#32 4)] ∧
    ({ withDev 0x280#32 D with seq.thread := [f] }.seq.ctx = .thread ∧
      { withDev 0x280#32 D with seq.thread := [f] }.seq.thread = [f]) := by
  unfold idle csClean; decide

/-- InternalOperationsAreRefusedToPrograms: thread context; TRANSFER elsewhere, at its re-entrant call, at its polled
call. -/
theorem witness_pump :
    let at_ (pos : TransferPos) : State := { quiet 0x80#32 with seq.thread := [.transferF 0 none none 1#32 pos] }
    (quiet 0x80#32).seq.ctx = .thread ∧ (0 < (at_ .armIn).seq.devs.length) ∧
    (at_ .armIn).stack = [.transferF 0 none none 1#32 .armIn] ∧
    (at_ .chunkPump).stack = [.transferF 0 none none 1#32 .chunkPump] ∧
    (at_ (.polledPump true)).stack = [.transferF 0 none none 1#32 (.polledPump true)] := by decide

/-- PumpLoopBodyMovesOneByteEachWay: each line of the loop body, in standard mode with TA = 1 and room. -/
theorem witness_pump_loop :
    let q : TransferRequest := { txCount := 2, rxCount := 2, tx := 0, rx := 0 }
    let at_ (src dst : Option Nat) (pos : PumpPos) : State :=
      { quiet 0x80#32 with eng.rxq := [0x0B#8, 0x0C#8], seq.thread := [.pumpF 0 src dst q pos] }
    standardMode (at_ none none .push) ∧ (at_ none none .push).bank.cs.getLsbD 7 = true ∧
    (at_ none none .push).eng.txq.length ≠ (at_ none none .push).cfg.fifoDepth ∧
    (at_ (some 4) none .push).stack = [.pumpF 0 (some 4) none q .push] ∧
    (at_ none (some 8) .pushFiller).stack = [.pumpF 0 none (some 8) q .pushFiller] ∧
    (at_ none (some 8) .pop).stack = [.pumpF 0 none (some 8) q .pop] ∧
    (at_ none (some 8) .pop).eng.rxq = 0x0B#8 :: [0x0C#8] ∧
    (at_ none (some 8) (.store 0x0B#8)).stack = [.pumpF 0 none (some 8) q (.store 0x0B#8)] := by
  unfold standardMode; decide

/-- PumpRoundTripsThroughLoopback: one byte in place for a re-entrant call, two bytes in buffers that touch for a polled
one. -/
theorem witness_round_trip :
    let s (n a b : Nat) (pos : TransferPos) : State := { quiet 0x80#32 with seq.thread :=
      [.pumpF 0 (some a) (some b) { txCount := n, rxCount := n, tx := 0, rx := 0 } (.waitTxd 0),
       .transferF 0 (some a) (some b) 1#32 pos] }
    (standardMode (quiet 0x80#32) ∧ csClean (quiet 0x80#32) ∧ Memory.wf (quiet 0x80#32).mem = true) ∧
    (s 1 0 0 .chunkPump).bank.cs.getLsbD 7 = true ∧ (s 1 0 0 .chunkPump).eng.busy = false ∧
    (s 1 0 0 .chunkPump).eng.txq = [] ∧ (s 1 0 0 .chunkPump).eng.rxq = [] ∧
    0 < (s 1 0 0 .chunkPump).cfg.fifoDepth ∧ (s 1 0 0 .chunkPump).env.slave = .loopback ∧
    (s 1 0 0 .chunkPump).stack.length = 2 ∧ (s 2 0 2 (.polledPump true)).stack.length = 2 ∧ 0 + 2 ≤ 2 := by
  unfold standardMode csClean; decide

/-- The two positions of `atPump`, and of `atChunk`. -/
theorem witness_at_pump :
    atPump .chunkPump ∧ atPump (.polledPump true) ∧ atChunk (.chunkA 4#32) ∧ atChunk (.chunkB 4#32 4) :=
  ⟨.inl rfl, .inr ⟨true, rfl⟩, .inl ⟨4#32, rfl⟩, .inr ⟨4#32, 4, rfl⟩⟩

/-- PumpDrainsAndReturnsTheLargerCount: an empty and a non-empty RX FIFO at the drain, under a polled call. -/
theorem witness_pump_drain :
    let q : TransferRequest := { txCount := 5, rxCount := 3, tx := 5, rx := 3 }
    let s : State := { quiet 0x80#32 with seq.thread :=
      [.pumpF 0 (some 0) (some 8) q .drainRead, .transferF 0 (some 0) (some 8) 5#32 (.polledPump true)] }
    (csClean s ∧ standardMode s) ∧ s.bank.cs.getLsbD 7 = true ∧ s.eng.busy = false ∧ s.eng.txq = [] ∧ s.eng.rxq = [] ∧
    s.stack = [.pumpF 0 (some 0) (some 8) q .drainRead, .transferF 0 (some 0) (some 8) 5#32 (.polledPump true)] ∧
    { s.eng with rxq := [0x0B#8] }.rxq = 0x0B#8 :: [] := by
  unfold csClean standardMode; decide

/-- DoneWaitWithoutTaHangs: S14. -/
theorem witness_hang :
    let q : TransferRequest := { txCount := 0, rxCount := 0, tx := 0, rx := 0 }
    let s : State := { quiet 0#32 with seq.thread :=
      [.pumpF 0 none none q (.waitDone 0), .transferF 0 none none 0#32 .chunkPump] }
    s.runStop = none ∧ csClean s ∧ s.bank.cs.getLsbD 7 = false ∧ s.cfg.timeout = none ∧ s.seq.ctx = .thread ∧
    s.seq.thread = .pumpF 0 none none q (.waitDone 0) :: [.transferF 0 none none 0#32 .chunkPump] :=
  ⟨rfl, by unfold csClean; decide, by decide, rfl, rfl, rfl⟩

/-- UnsatisfiedWaitPollsAgainOrTimesOut: each wait unsatisfied; no timeout; the second and the third of three polls; a polled TRANSFER of a
program, and a re-entrant one of the handler. -/
theorem witness_timeout :
    let q : TransferRequest := { txCount := 1, rxCount := 1, tx := 1, rx := 0 }
    let s : State := { quiet 0x80#32 with
      cfg := { Params.reference with timeout := some 3 }
      seq.thread := [.pumpF 0 none (some 8) q (.waitRxd 2), .transferF 0 none (some 8) 1#32 (.polledPump true)] }
    let h : State := inHandler 0x80#32 onDone
      [.pumpF 0 none (some 8) q (.waitRxd 2), .transferF 0 none (some 8) 1#32 .chunkPump, .handlerF 0 (.chunkB 1#32 4)]
    unsatisfiedWait s .waitRxd ∧
    unsatisfiedWait { s with eng.txq := List.replicate 64 0x00#8 } .waitTxd ∧
    unsatisfiedWait { s with eng.busy := true } .waitDone ∧
    csClean s ∧ (quiet 0x80#32).cfg.timeout = none ∧ s.cfg.timeout = some 3 ∧ 1 ≤ 3 ∧ 1 + 1 < 3 ∧ 3 ≤ 2 + 1 ∧ s.seq.ctx = .thread ∧
    s.stack = [.pumpF 0 none (some 8) q (.waitRxd 2), .transferF 0 none (some 8) 1#32 (.polledPump true)] ∧
    csClean h ∧ h.seq.ctx = .interrupt ∧ h.eng.rxq = [] ∧
    h.stack = [.pumpF 0 none (some 8) q (.waitRxd 2), .transferF 0 none (some 8) 1#32 .chunkPump,
      .handlerF 0 (.chunkB 1#32 4)] := by
  refine ⟨.inr (.inl ⟨rfl, rfl⟩), .inl ⟨rfl, by decide⟩, .inr (.inr ⟨rfl, by decide⟩), ?_⟩
  unfold csClean; decide

/-- DeliveryEntersTheHandlerOrFaults: an attached line and none. -/
theorem witness_delivery :
    (inHandler 0x280#32 onDone []).seq.irqAttached = true ∧ (quiet 0x280#32).seq.irqAttached = false ∧
    csClean (quiet 0x280#32) := by
  unfold csClean; decide

/-- InterruptsAreDeliveredOnlyToAnUnmaskedThread: a step that enters the handler, and one in it. -/
theorem witness_interrupt_entry :
    (∃ s t : State, Inv s ∧ step s = .next t ∧ s.seq.ctx = .thread ∧ t.seq.ctx = .interrupt) ∧
    (∃ s t : State, Inv s ∧ step s = .next t ∧ s.seq.ctx = .interrupt) := by
  obtain ⟨t, h1, h2⟩ := goes_next
    (o := step { withDev 0x280#32 onDone with
      seq := { (withDev 0#32 onDone).seq with irqAttached := true, irqCtx := some 0 } })
    (p := fun t => t.seq.ctx == .interrupt) (by decide)
  obtain ⟨u, hu⟩ := goes_some
    (o := step (inHandler 0x280#32 { onDone with remaining := 12 } [])) (by decide)
  refine ⟨⟨_, t, ?_, h1, rfl, by simpa using h2⟩, _, u, inv_inHandler, hu, rfl⟩
  constructor <;> decide

/-- HandlerWithoutCauseReturns: H3, with nothing remaining and RXR = 0. -/
theorem witness_handler_no_cause :
    let s := inHandler 0x280#32 onDone []
    csClean s ∧ s.seq.ctx = .interrupt ∧ s.seq.intr = [] ∧ s.seq.irqCtx = some 0 ∧ s.dev? 0 = some onDone ∧
    ¬ (s.bank.cs.getLsbD 7 = true ∧ s.eng.txq = [] ∧ s.eng.busy = false ∧ 0 < onDone.remaining) ∧
    ¬ (s.bank.cs.getLsbD 7 = true ∧ s.cfg.rxrThreshold ≤ s.eng.rxq.length) := by
  unfold csClean; decide

/-- HandlerBranchesStartAChunk: H1 with the largest remaining count; and RXR at a threshold of 1, no bytes
remaining. -/
theorem witness_handler_done :
    let D := { onDone with remaining := 2147483647, src := some 64 }
    let s := inHandler 0x280#32 D []
    csClean s ∧ s.seq.ctx = .interrupt ∧ s.seq.intr = [] ∧ s.seq.irqCtx = some 0 ∧ s.dev? 0 = some D ∧
    (D.irqDone = true ∨ D.irqRecv = true) ∧ inInt32 D.remaining = true ∧ s.bank.cs.getLsbD 8 = false ∧
    s.bank.cs.getLsbD 7 = true ∧ s.eng.txq = [] ∧ s.eng.busy = false ∧ 0 < D.remaining ∧
    (let r := { inHandler 0x480#32 { onDone with dst := some 8 } [] with
                  cfg := { Params.reference with rxrThreshold := 1 }, eng.rxq := [0x0B#8] }
     csClean r ∧ ¬ (r.eng.txq = [] ∧ r.eng.busy = false ∧ 0 < onDone.remaining) ∧
     r.cfg.rxrThreshold ≤ r.eng.rxq.length ∧ 0 ≤ onDone.remaining ∧ r.bank.cs.getLsbD 7 = true ∧
     r.bank.cs.getLsbD 8 = false) := by
  unfold csClean; decide

/-- HandlerCompletionClearsTaAndCallsBack: remaining 0 and 1. -/
theorem witness_handler_completion :
    (let s := inHandler 0x280#32 onDone [.handlerF 0 .afterA]
     csClean s ∧ s.seq.ctx = .interrupt ∧ s.seq.intr = [.handlerF 0 .afterA] ∧ s.dev? 0 = some onDone ∧
     onDone.remaining = 0 ∧ ¬ midByte s) ∧
    { onDone with remaining := 1 }.remaining ≠ 0 := by
  unfold csClean midByte; decide

/-- HandlerReceiveBranchCallsSendComplete: H4, and each way it does not apply. -/
theorem witness_handler_receive :
    (let D := { onDone with remaining := 6, dst := some 12 }
     let s := inHandler 0x480#32 D [.handlerF 0 (.afterB 10)]
     s.seq.ctx = .interrupt ∧ s.seq.intr = [.handlerF 0 (.afterB 10)] ∧ s.dev? 0 = some D ∧ D.dst ≠ none ∧
     D.remaining < 10) ∧
    onDone.dst = none ∧ (0 : Int) ≤ onDone.remaining := by decide

/-- HandlerOnEmptyBuffersIsALivelock: H7. -/
theorem witness_livelock :
    let D := { onDone with remaining := 8 }
    let s := inHandler 0x280#32 D []
    csClean s ∧ s.seq.ctx = .interrupt ∧ s.seq.intr = [] ∧ s.seq.irqAttached = true ∧ s.seq.irqCtx = some 0 ∧ s.dev? 0 = some D ∧
    D.irqDone = true ∧ D.src = none ∧ D.dst = none ∧ inInt32 D.remaining = true ∧ 0 < D.remaining ∧
    s.bank.cs.getLsbD 8 = false ∧ s.bank.cs.getLsbD 7 = true ∧ s.bank.cs.getLsbD 9 = true ∧ s.eng.txq = [] ∧
    s.eng.rxq = [] ∧ s.eng.busy = false := by
  unfold csClean; decide

/-- HostLinesMoveTheProgram: a line of each kind, equal and unequal values, a written variable and one that is not. -/
theorem witness_host_lines :
    let at_ (l : HostLine) : State := { quiet 0#32 with host.lines := [l], host.vars := [(1, .word 5#32)] }
    let x (l : HostLine) := idle (at_ l) ∧ (at_ l).host.lines[(at_ l).host.pc]? = some l
    x .cli ∧ x .sti ∧ x (.goto 7) ∧ x (.ifGoto (.eq (.var 1) (.const 5#32)) 3) ∧
    x (.ifGoto (.ne (.var 1) (.const 6#32)) 3) ∧ x (.write 0x0500#16 (.var 7)) ∧
    x (.command [0x00#8, 0x04#8] (some 2)) ∧
    evalExpr (at_ .cli).host.vars (.var 1) = .ok 5#32 ∧ evalExpr (at_ .cli).host.vars (.const 6#32) = .ok 6#32 ∧
    lookupVar (at_ .cli).host.vars 1 = some (.word 5#32) ∧ lookupVar (at_ .cli).host.vars 7 = none ∧
    evalExpr (at_ .cli).host.vars (.var 7) = .error 7 := by
  refine ⟨⟨⟨rfl, rfl⟩, rfl⟩, ⟨⟨rfl, rfl⟩, rfl⟩, ⟨⟨rfl, rfl⟩, rfl⟩, ⟨⟨rfl, rfl⟩, rfl⟩, ⟨⟨rfl, rfl⟩, rfl⟩,
    ⟨⟨rfl, rfl⟩, rfl⟩, ⟨⟨rfl, rfl⟩, rfl⟩, rfl, rfl, rfl, rfl, rfl⟩

/-- CallbacksComeOnlyFromTheHandler: a step that records a callback. -/
theorem witness_callback :
    ∃ (s t : State) (name : CallbackName) (d : Nat), Inv s ∧ step s = .next t ∧
      ∃ es, t.book.events = s.book.events ++ es ∧ Event.callback name d ∈ es := by
  obtain ⟨t, h1, h2⟩ := goes_next (o := step (inHandler 0x200#32 onDone [.handlerF 0 .callbackA]))
    (p := fun t => t.book.events == [.callback .onSendComplete 0]) (by decide)
  refine ⟨inHandler 0x200#32 onDone [.handlerF 0 .callbackA], t, .onSendComplete, 0, ?_, h1,
    [.callback .onSendComplete 0], (by simpa using h2 : t.book.events = [.callback .onSendComplete 0]), by simp⟩
  constructor <;> decide

/-- ConfigurationIsFixedAndHistoryOnlyGrows: a step. OnlySelectChangesTheAttachment: one with no SELECT
running and none at the program's line. -/
theorem witness_step :
    ∃ s t : State, step s = .next t ∧ ¬ selecting s := by
  obtain ⟨t, ht⟩ := goes_some (o := step (inHandler 0x200#32 onDone [.handlerF 0 .ret])) (by decide)
  refine ⟨_, t, ht, ?_⟩
  rintro (⟨d, c, pos, l, h⟩ | ⟨⟨h, -⟩, -⟩ | ⟨⟨h, -⟩, -⟩ | ⟨⟨h, -⟩, -⟩)
  · exact absurd h (by simp [inHandler, State.stack])
  · exact absurd h (by decide)
  · exact absurd h (by decide)
  · exact absurd h (by decide)

/-- An infinite run: a program that is one `goto` to itself. -/
def looping (n : Nat) : State :=
  { quiet 0#32 with
    host.lines := [.goto 0]
    env := { (quiet 0#32).env with fresh := n, engineSince := n - 1, entrySince := n - 1 } }

/-- EveryInfiniteRunIsWeaklyFair: there are infinite runs. -/
theorem witness_infinite_run : IsRun looping := by
  intro n
  have h1 : (looping n).runStop = none := rfl
  have h2 : (looping n).enabledAgents = [.host] := (by decide : (looping 0).enabledAgents = [.host])
  have h3 : (looping n).engineEnabled = false := (by decide : (looping 0).engineEnabled = false)
  have h4 : (looping n).entryEnabled = false := (by decide : (looping 0).entryEnabled = false)
  have h5 : (looping n).chooseAgent = some (.host, (looping n).waited .host) := by
    unfold State.chooseAgent; rw [h2]
  unfold step
  rw [h1, h5]
  simp only [State.waited, h3, h4]
  rfl

/-- OnlyAnArmRaisesTheRemainingCount: the arm's assignment. -/
theorem witness_arm_raises :
    ∃ (s t : State) (D D' : LogicalDevice), step s = .next t ∧ s.dev? 0 = some D ∧ t.dev? 0 = some D' ∧
      D.remaining < D'.remaining := by
  obtain ⟨t, h1, h2⟩ := goes_next
    (o := step { withDev 0#32 onDone with seq.thread := [.transferF 0 none none 0xFFFFFFF4#32 .armRemaining] })
    (p := fun t => t.dev? 0 == some { onDone with remaining := 12 }) (by decide)
  exact ⟨_, t, onDone, { onDone with remaining := 12 }, h1, rfl, by simpa using h2, by decide⟩

/-- RunEndsCompleteOrStuck: S20, and the same with nothing remaining. -/
theorem witness_stuck :
    let D := { plain 0#2 0#16 with remaining := 12 }
    let s := withDev 0x80#32 D
    let f := withDev 0x80#32 (plain 0#2 0#16)
    (s.runStop = none ∧ idle s ∧ s.host.lines.length ≤ s.host.pc ∧ s.dev? 0 = some D ∧ 0 < D.remaining ∧
      s.eng.busy = false ∧ s.eng.txq = [] ∧ s.bank.cs.getLsbD 9 = false ∧ s.bank.cs.getLsbD 10 = false) ∧
    (f.runStop = none ∧ idle f ∧ f.host.lines.length ≤ f.host.pc ∧ f.eng.busy = false ∧ f.eng.txq = [] ∧
      (∀ D ∈ f.seq.devs, D.remaining = 0) ∧ f.irq = false) :=
  ⟨⟨rfl, ⟨rfl, rfl⟩, Nat.le_refl _, rfl, by decide, rfl, rfl, by decide, by decide⟩,
   rfl, ⟨rfl, rfl⟩, Nat.le_refl _, rfl, rfl, by decide, by decide⟩

end Sys2Proof.Tests
end

/-! ## Configurations the model refuses (R9, R296, R333) -/

section
namespace Sys2Proof

/-- R9: a configuration is invalid exactly when it breaks one of the eight bounds. -/
theorem Params.valid_eq_false_iff (p : Params) :
    p.valid = false ↔
      p.rxrThreshold < 1 ∨ p.fifoDepth < p.rxrThreshold ∨ p.txLowWater < 1 ∨ p.fifoDepth < p.txLowWater ∨
        p.rxHighWater < 1 ∨ p.fifoDepth < p.rxHighWater ∨ p.errataDlen = 0#16 ∨ p.errataDlen = 1#16 := by
  simp only [Params.valid, Bool.and_eq_false_iff, decide_eq_false_iff_not, not_le, ne_eq, not_not, or_assoc]

end Sys2Proof

namespace Sys2Proof.Machine

/-- A run that has ended, or may not start, answers how it ended and takes no step. -/
theorem step_of_runStop {s : State} {o : StepResult} (h : s.runStop = some o) : step s = o := by
  unfold step
  rw [h]

/-- X5: with nothing recorded, invalid parameters come before any other check. -/
theorem State.runStop_of_invalid {s : State} (hf : s.book.faults = []) (hr : s.book.refused = false)
    (hv : s.cfg.valid = false) : s.runStop = some (.refused .paramInvalid) := by
  simp [State.runStop, hf, hr, hv]

/-- X4: with nothing recorded and valid parameters, a callback that acts. -/
theorem State.runStop_of_actingCallback {s : State} (hf : s.book.faults = []) (hr : s.book.refused = false)
    (hv : s.cfg.valid = true) (hc : s.callbacksInert = false) : s.runStop = some (.refused .callbackEffect) := by
  simp [State.runStop, hf, hr, hv, hc]

theorem Callback.acts_iff (c : Callback) : c.acts = true ↔ ∃ n, c = .acting n := by
  cases c <;> simp [Callback.acts]

/-- R296: the callbacks are not inert exactly when some device has one that acts. -/
theorem State.callbacksInert_eq_false_iff (s : State) :
    s.callbacksInert = false ↔
      ∃ D ∈ s.seq.devs, ∃ n, D.onSendComplete = .acting n ∨ D.onDataReceived = .acting n := by
  have hdev (D : LogicalDevice) : (!D.onSendComplete.acts && !D.onDataReceived.acts) = false ↔
      ∃ n, D.onSendComplete = .acting n ∨ D.onDataReceived = .acting n := by
    rw [Bool.and_eq_false_iff, Bool.not_eq_false', Bool.not_eq_false', Callback.acts_iff, Callback.acts_iff,
      exists_or]
  simp only [State.callbacksInert, List.all_eq_false, Bool.not_eq_true, hdev]

/-- Settles O9: each clause is one check of `runStop`, reached because the checks before it pass. -/
theorem invalidConfigurationsAreRefused : Obligations.InvalidConfigurationsAreRefused := by
  intro s hf hr
  constructor
  · intro hbroken
    have hv : s.cfg.valid = false := s.cfg.valid_eq_false_iff.mpr hbroken
    exact step_of_runStop (State.runStop_of_invalid hf hr hv)
  · intro hv hacting
    have hc : s.callbacksInert = false := s.callbacksInert_eq_false_iff.mpr hacting
    exact step_of_runStop (State.runStop_of_actingCallback hf hr hv hc)

end Sys2Proof.Machine
end

/-! ## What one step of the HOST can do -/

section
namespace Sys2Proof.Machine

open Sys2Proof.Spec

/-- The parts of the state that the invariant and the ends of a run speak of. -/
def State.held (s : State) : Params × Word × Engine × Sequencer × List Host.Cell × List FaultCode × Bool :=
  (s.cfg, s.bank.cs, s.eng, s.seq, s.mem, s.book.faults, s.book.refused)

theorem State.seq_of_held {s t : State} (h : t.held = s.held) : t.seq = s.seq := congrArg (fun x => x.2.2.2.1) h

theorem State.records_of_held {s t : State} (h : t.held = s.held) :
    t.book.faults = s.book.faults ∧ t.book.refused = s.book.refused :=
  Prod.mk.inj (congrArg (fun x => x.2.2.2.2.2) h)

/-- The five sequencer operations (R113), each of which keeps a position while it runs (R21). -/
inductive Operation where
  | init | select | transfer | pump | handler

/-- The operation a position belongs to. -/
@[simp] def Frame.operation : Frame → Operation
  | .initF _ => .init
  | .selectF _ _ _ => .select
  | .transferF _ _ _ _ _ => .transfer
  | .pumpF _ _ _ _ _ => .pump
  | .handlerF _ _ => .handler

/-- R114, R280: where an operation may begin: PUMP above a TRANSFER that waits for it, TRANSFER above an IRQ_HANDLER
that waits for it, and with nothing running IRQ_HANDLER in interrupt context, the program's operations in thread
context. -/
@[simp] def Operation.startsOn (c : Ctx) : Operation → List Frame → Prop
  | .pump, g :: _ => g.awaitsPump = true
  | .transfer, g :: _ => g.awaitsTransfer = true
  | .handler, [] => c = .interrupt
  | .init, [] => c = .thread
  | .select, [] => c = .thread
  | .transfer, [] => c = .thread
  | _, _ => False

/-- What a step of the HOST does before a position moves: a transaction, or one host-side update. Only where `sel`
holds does it attach or detach the line. -/
inductive Acts (sel : Prop) (s : State) : State → Prop
  | quiet {u : State} (h : u.held = s.held) : Acts sel s u
  | csWrite {w : Word} {u : State} (h : s.writeCs w = .next u) : Acts sel s u
  | fifoWrite {w : Word} {u : State} (h : s.writeFifo w = .next u) : Acts sel s u
  | fifoRead {u : State} (h : s.readFifo = .next u) : Acts sel s u
  | memory (a : Nat) (v : Byte) : Acts sel s (s.memStore a v)
  | device (d : Nat) {f : LogicalDevice → LogicalDevice}
      (hf : ∀ D, inInt32 D.remaining = true → inInt32 (f D).remaining = true) : Acts sel s (s.updateDev d f)
  | mask (b : Bool) (hb : s.seq.ctx = .interrupt → b = true → ∃ f ∈ s.stack, f.savedMask = some true) :
      Acts sel s { s with seq.ie := b }
  | attach {d : Nat} (hsel : sel) (hd : d < s.seq.devs.length) : Acts sel s (s.drawn.attachLine d)
  | detach (hsel : sel) (hc : s.seq.ctx = .thread) : Acts sel s s.detachLine

/-- What a whole step of the HOST does: an act, after which nothing else happens, the innermost position moves, an
operation begins, or one answers. -/
inductive HostMove (sel : Prop) (s : State) : State → Prop
  | act {u : State} (ha : Acts sel s u) : HostMove sel s u
  | move {u : State} {f f' : Frame} {l : List Frame} (ha : Acts sel s u) (hs : s.stack = f :: l)
      (hop : f'.operation = f.operation) (hm : f'.savedMask = none ∨ f'.savedMask = some s.seq.ie) :
      HostMove sel s (u.moveTo f')
  | push {u : State} {f : Frame} (ha : Acts sel s u) (hf : f.operation.startsOn s.seq.ctx s.stack)
      (hm : f.savedMask = none) : HostMove sel s (u.push f)
  | deliver {u : State} (r : OpResult) (ha : Acts sel s u) : HostMove sel s (u.deliver r)
  | finish {u : State} (r : OpResult) (ha : Acts sel s u) : HostMove sel s (u.finish r)

variable {sel : Prop} {s t : State}

/-- A register transaction of the program is an act alone. -/
theorem exec_bus_acts {i : Instr} (hb : busInstr i = true) (h : exec i s = .next t) : Acts sel s t := by
  cases i with
  | csWrite w => exact .csWrite h
  | fifoRead => exact .fifoRead h
  | fifoWrite w => exact .fifoWrite h
  | csRead | clkRead | clkWrite | dlenRead | dlenWrite | ltohRead | ltohWrite | dcRead | dcWrite =>
    cases h; exact .quiet rfl
  | init | select | transfer | pump | irqHandler => cases hb

/-- R240: SELECT's first step. -/
theorem execSelect_move {d : Nat} {c : Word} (hc : s.seq.ctx = .thread) (hs : s.stack = [])
    (hsel : sel) (h : execSelect d c s = .next t) : HostMove sel s t := by
  have hstart : Operation.select.startsOn s.seq.ctx s.stack := by rw [hs]; exact hc
  unfold execSelect at h
  split at h
  · cases h
  · split at h
    · cases h; exact .deliver _ (.quiet rfl)
    · split at h
      · cases h; exact .push (.quiet rfl) hstart rfl
      · split at h
        · cases h; exact .push (.detach hsel hc) hstart rfl
        · cases h; exact .push (.quiet rfl) hstart rfl

/-- R264: TRANSFER begins at no position that holds a saved mask. -/
theorem transferDecide_savedMask {w n : Word} {D : LogicalDevice} {pos : TransferPos}
    (h : transferDecide w n D = some pos) (d : Nat) (src dst : Option Nat) :
    (Frame.transferF d src dst n pos).savedMask = none := by
  unfold transferDecide at h
  repeat' split at h
  all_goals cases h
  all_goals rfl

/-- R264: TRANSFER's first step. -/
theorem execTransfer_move {d : Nat} {src dst : Option Nat} {n : Word}
    (hstart : Operation.transfer.startsOn s.seq.ctx s.stack)
    (h : execTransfer d src dst n s = .next t) : HostMove sel s t := by
  unfold execTransfer at h
  split at h
  · cases h
  · split at h
    · cases h; exact .deliver _ (.quiet rfl)
    · next hpos => cases h; exact .push (.quiet rfl) hstart (transferDecide_savedMask hpos d src dst)

/-- R114: what calls PUMP waits for it. -/
theorem State.calledByTransfer_startsOn {d : Nat} {src dst : Option Nat} {txc rxc : Word}
    (h : s.calledByTransfer d src dst txc rxc = true) : Operation.pump.startsOn s.seq.ctx s.stack := by
  unfold State.calledByTransfer at h
  split at h
  · next hs => rw [hs]; rfl
  · next hs => rw [hs]; rfl
  · cases h

/-- PUMP's first step. -/
theorem execPump_move {d : Nat} {src dst : Option Nat} {txc rxc : Word} (h : execPump d src dst txc rxc s = .next t) :
    HostMove sel s t := by
  unfold execPump at h
  split at h
  · cases h
  · split at h
    · cases h
    · next hc =>
      cases h
      exact .push (.quiet rfl) (State.calledByTransfer_startsOn (by simpa using hc)) rfl

/-- R341: IRQ_HANDLER's first step. -/
theorem execIrqHandler_move (h : execIrqHandler s = .next t) : HostMove sel s t := by
  unfold execIrqHandler at h
  split at h
  · next hc hintr _ =>
    split at h
    · cases h
    · cases h
      exact .push (.quiet rfl) (by rw [State.stack_interrupt hc, hintr]; exact hc) rfl
  · cases h

/-- An instruction that the program issues with nothing running. -/
theorem exec_move {i : Instr} (hc : s.seq.ctx = .thread) (hs : s.stack = []) (hsel : ∀ d c, i = .select d c → sel)
    (h : exec i s = .next t) : HostMove sel s t := by
  cases hb : busInstr i with
  | true => exact .act (exec_bus_acts hb h)
  | false =>
    cases i with
    | init => cases h; exact .push (.quiet rfl) (by rw [hs]; exact hc) rfl
    | select d c => exact execSelect_move hc hs (hsel d c rfl) h
    | transfer d src dst n => exact execTransfer_move (by rw [hs]; exact hc) h
    | pump d src dst txc rxc => exact execPump_move h
    | irqHandler => exact execIrqHandler_move h
    | csRead | csWrite | fifoRead | fifoWrite | clkRead | clkWrite | dlenRead | dlenWrite | ltohRead | ltohWrite
    | dcRead | dcWrite => cases hb

/-! ### Running operations -/

/-- R230: the register writes of INIT. -/
theorem initAdvance_move {pos : InitPos} {l : List Frame} (hs : s.stack = .initF pos :: l)
    (h : initAdvance pos s = .next t) : HostMove sel s t := by
  cases pos with
  | writeCs =>
    obtain ⟨u, hu, ht⟩ := andThen_eq_next.mp h
    cases ht; exact .move (.csWrite hu) hs rfl (.inl rfl)
  | writeClk => cases h; exact .move (.quiet rfl) hs rfl (.inl rfl)
  | writeDlen => cases h; exact .finish _ (.quiet rfl)

/-- SELECT (R240). -/
theorem selectAdvance_move {d : Nat} {c : BitVec 2} {pos : SelectPos} {l : List Frame}
    (hs : s.stack = .selectF d c pos :: l) (hsel : sel) (h : selectAdvance d c pos s = .next t) :
    HostMove sel s t := by
  unfold selectAdvance at h
  split at h
  · cases h
  · next D hD =>
    cases pos <;> dsimp only at h
    case attach =>
      split at h
      · cases h; exact .move (.attach hsel (List.getElem?_eq_some_iff.mp hD).1) hs rfl (.inl rfl)
      · cases h; exact .finish _ (.quiet rfl)
    case enableRead | modeRead | modeSetRead | chipRead | divisor => cases h; exact .move (.quiet rfl) hs rfl (.inl rfl)
    case enableWrite | modeClear | modeSet =>
      obtain ⟨u, hu, ht⟩ := andThen_eq_next.mp h
      cases ht; exact .move (.csWrite hu) hs rfl (.inl rfl)
    case chipWrite =>
      obtain ⟨u, hu, ht⟩ := andThen_eq_next.mp h
      cases ht; exact .finish _ (.csWrite hu)

/-- R11: an assignment to D.remaining keeps the range. -/
theorem LogicalDevice.setRemaining_range {D : LogicalDevice} (h : inInt32 D.remaining = true) (n : Int) :
    inInt32 (D.setRemaining n).remaining = true := by
  unfold LogicalDevice.setRemaining
  split
  · assumption
  · exact h

/-- TRANSFER (R260). -/
theorem transferAdvance_move {d : Nat} {src dst : Option Nat} {n : Word} {pos : TransferPos} {l : List Frame}
    (hs : s.stack = .transferF d src dst n pos :: l) (h : transferAdvance d src dst n pos s = .next t) :
    HostMove sel s t := by
  unfold transferAdvance at h
  cases pos <;> dsimp only at h
  case chunkPump | polledPump => exact execPump_move h
  case armClear | taSet | clearWrite =>
    obtain ⟨u, hu, ht⟩ := andThen_eq_next.mp h
    cases ht; exact .move (.csWrite hu) hs rfl (.inl rfl)
  case armTa | release =>
    obtain ⟨u, hu, ht⟩ := andThen_eq_next.mp h
    cases ht; exact .finish _ (.csWrite hu)
  case armDlen | armClearRead | armTaRead | taRead | clearRead | releaseRead =>
    cases h; exact .move (.quiet rfl) hs rfl (.inl rfl)
  case armIn | armOut | chunkIn => cases h; exact .move (.device d fun _ hD => hD) hs rfl (.inl rfl)
  case armRemaining | chunkRemaining =>
    cases h; exact .move (.device d fun _ hD => LogicalDevice.setRemaining_range hD _) hs rfl (.inl rfl)
  case chunkOut => cases h; exact .finish _ (.device d fun _ hD => hD)
  case logUnsupported | abandon => cases h; exact .finish _ (.quiet rfl)
  case enterCritical => cases h; exact .move (.mask false fun _ hb => nomatch hb) hs rfl (.inr rfl)
  case leaveCritical saved timedOut =>
    have hmask : Acts sel s { s with seq.ie := saved } :=
      .mask saved fun _ hb =>
        ⟨.transferF d src dst n (.leaveCritical saved timedOut), by simp [hs], congrArg some hb⟩
    split at h
    · cases h; exact .finish _ hmask
    · cases h; exact .move hmask hs rfl (.inl rfl)

/-- R102, R326: one poll of a busy-wait, given what it does once met. -/
theorem State.poll_move {flag : Word} {polls : Nat} {met : State → State} {f again : Frame} {l : List Frame}
    (hs : s.stack = f :: l) (hop : again.operation = f.operation) (hm : again.savedMask = none)
    (hmet : HostMove sel s (met s.readCs)) : HostMove sel s (s.poll flag polls met again) := by
  rcases s.poll_cases flag polls met again with ⟨-, h⟩ | ⟨-, -, h⟩ | ⟨-, -, h⟩ <;> rw [h]
  · exact hmet
  · exact .move (.quiet rfl) hs hop (.inl hm)
  · exact .finish _ (.quiet rfl)

/-- PUMP (R250). -/
theorem pumpAdvance_move {d : Nat} {src dst : Option Nat} {q : TransferRequest} {pos : PumpPos} {l : List Frame}
    (hs : s.stack = .pumpF d src dst q pos :: l) (h : pumpAdvance d src dst q pos s = .next t) :
    HostMove sel s t := by
  cases pos with
  | waitTxd _ | waitRxd _ => cases h; exact State.poll_move hs rfl rfl (.move (.quiet rfl) hs rfl (.inl rfl))
  | waitDone polls => cases h; exact State.poll_move hs rfl rfl (.finish _ (.quiet rfl))
  | push | pushFiller =>
    obtain ⟨u, hu, ht⟩ := andThen_eq_next.mp h
    cases ht; exact .move (.fifoWrite hu) hs rfl (.inl rfl)
  | pop | drainPop =>
    obtain ⟨u, hu, ht⟩ := andThen_eq_next.mp h
    cases ht; exact .move (.fifoRead hu) hs rfl (.inl rfl)
  | store b => cases h; exact .move (.memory _ _) hs rfl (.inl rfl)
  | drainRead => cases h; exact .move (.quiet rfl) hs rfl (.inl rfl)

/-- IRQ_HANDLER (R280). -/
theorem handlerAdvance_move {d : Nat} {pos : HandlerPos} {l : List Frame} (hs : s.stack = .handlerF d pos :: l)
    (h : handlerAdvance d pos s = .next t) : HostMove sel s t := by
  unfold handlerAdvance at h
  split at h
  · cases h
  · cases pos <;> dsimp only at h
    case chunkA | chunkB => exact execTransfer_move (by rw [hs]; rfl) h
    case afterA =>
      split at h
      · cases h; exact .move (.quiet rfl) hs rfl (.inl rfl)
      · cases h; exact .finish _ (.quiet rfl)
    case clearTa =>
      obtain ⟨u, hu, ht⟩ := andThen_eq_next.mp h
      cases ht; exact .move (.csWrite hu) hs rfl (.inl rfl)
    case callbackA => cases h; exact .move (.quiet rfl) hs rfl (.inl rfl)
    case afterB =>
      split at h
      · cases h; exact .move (.quiet rfl) hs rfl (.inl rfl)
      · cases h; exact .finish _ (.quiet rfl)
    case ret => cases h; exact .finish _ (.quiet rfl)

/-- Whichever operation is running; SELECT alone acts on the line. -/
theorem advance_move {f : Frame} {l : List Frame} (hs : s.stack = f :: l)
    (hsel : ∀ d c pos, f = .selectF d c pos → sel) (h : advance f s = .next t) : HostMove sel s t := by
  cases f with
  | initF pos => exact initAdvance_move hs h
  | selectF d c pos => exact selectAdvance_move hs (hsel d c pos rfl) h
  | transferF d src dst n pos => exact transferAdvance_move hs h
  | pumpF d src dst q pos => exact pumpAdvance_move hs h
  | handlerF d pos => exact handlerAdvance_move hs h

/-! ### The HOST's step -/

/-- A HOST step up to the parts of the state that are not `held`: where the program stands, its variables and its RDATA,
the other registers, the history and the environment. -/
def HeldMove (sel : Prop) (s t : State) : Prop :=
  ∃ s' t', s'.held = s.held ∧ HostMove sel s' t' ∧ t.held = t'.held

theorem HostMove.heldMove (h : HostMove sel s t) : HeldMove sel s t := ⟨s, t, rfl, h, rfl⟩

theorem State.lineDone_held (s : State) (i : Instr) : (s.lineDone i).held = s.held := by
  unfold State.lineDone
  split <;> rfl

/-- An instruction issued by the program. -/
theorem issue_move {i : Instr} {dst : Option Nat} (hc : s.seq.ctx = .thread) (hs : s.stack = [])
    (hsel : ∀ d c, i = .select d c → sel) (h : issue i dst s = .next t) : HeldMove sel s t := by
  obtain ⟨u, hu, ht⟩ := andThen_eq_next.mp h
  cases ht
  exact ⟨s.issued dst, u, rfl, exec_move hc hs hsel hu, u.lineDone_held i⟩

/-- Bytes that the program issues. -/
theorem runBytes_move {bytes : List Byte} {dst : Option Nat} (hc : s.seq.ctx = .thread) (hs : s.stack = [])
    (hsel : ∀ d c rest, decode bytes = .ok (.select d c, rest) → sel) (h : runBytes bytes dst s = .next t) :
    HeldMove sel s t := by
  unfold runBytes at h
  split at h
  · next i rest hd => exact issue_move hc hs (fun d c hi => hsel d c rest (hi ▸ hd)) h
  · next e _ => cases e <;> cases h

/-- A line of the program. -/
theorem runLine_move {l : HostLine} (hi : idle s) (hl : s.host.lines[s.host.pc]? = some l)
    (h : runLine l s = .next t) : HeldMove (selecting s) s t := by
  have ⟨hc, hthread⟩ := hi
  have hs : s.stack = [] := (State.stack_thread hc).trans hthread
  have hie (b : Bool) : HostMove (selecting s) s { s with seq.ie := b } :=
    .act (.mask b fun hint _ => by rw [hc] at hint; cases hint)
  cases l with
  | command bytes dst =>
    exact runBytes_move hc hs (fun d c rest hd => .inr (.inl ⟨hi, bytes, dst, d, c, rest, hl, hd⟩)) h
  | call i dst =>
    exact issue_move hc hs (fun d c hsel => .inr (.inr (.inl ⟨hi, d, c, dst, hsel ▸ hl⟩))) h
  | write w e =>
    simp only [runLine] at h
    split at h
    · next v hv =>
      exact runBytes_move hc hs (fun d c rest hd => .inr (.inr (.inr ⟨hi, w, e, v, d, c, rest, hl, hv, hd⟩))) h
    · cases h
  | cli => cases h; exact ⟨s, _, rfl, hie false, rfl⟩
  | sti => cases h; exact ⟨s, _, rfl, hie true, rfl⟩
  | goto n => cases h; exact (HostMove.act (.quiet rfl)).heldMove
  | ifGoto c n =>
    simp only [runLine] at h
    split at h
    · cases h; exact (HostMove.act (.quiet rfl)).heldMove
    · cases h

/-- Everything a step of the HOST can do; it acts on the line only while it is selecting. -/
theorem hostStep_move (h : hostStep s = .next t) : HeldMove (selecting s) s t := by
  unfold hostStep at h
  split at h
  · next f l hs =>
    exact (advance_move hs (fun d c pos hf => .inl ⟨d, c, pos, l, hf ▸ hs⟩) h).heldMove
  · exact (execIrqHandler_move h).heldMove
  · next hs hc =>
    split at h
    · next l hl => exact runLine_move ⟨hc, (State.stack_thread hc).symm.trans hs⟩ hl h
    · cases h

/-! ### What every act leaves -/

/-- An act leaves the context and its operations alone, and records neither a fault nor a refusal. -/
theorem Acts.keeps (h : Acts sel s t) :
    t.seq.ctx = s.seq.ctx ∧ t.stack = s.stack ∧ t.book.faults = s.book.faults ∧ t.book.refused = s.book.refused := by
  cases h with
  | quiet h =>
    have hq := State.seq_of_held h
    exact ⟨by rw [hq], by unfold State.stack; rw [hq], State.records_of_held h⟩
  | csWrite h => rw [(State.writeCs_next h).1]; exact ⟨rfl, rfl, rfl, rfl⟩
  | fifoWrite h => rw [(State.writeFifo_next h).1]; exact ⟨rfl, rfl, rfl, rfl⟩
  | fifoRead h => rw [(State.readFifo_next h).1]; exact ⟨rfl, rfl, rfl, rfl⟩
  | memory | device | mask | attach | detach => exact ⟨rfl, rfl, rfl, rfl⟩

/-- R53: where SELECT does not act on the line, no act changes the attachment. -/
theorem Acts.attachment (h : Acts sel s t) (hsel : ¬ sel) :
    t.seq.irqAttached = s.seq.irqAttached ∧ t.seq.irqCtx = s.seq.irqCtx := by
  cases h with
  | quiet h => rw [State.seq_of_held h]; exact ⟨rfl, rfl⟩
  | csWrite h => rw [(State.writeCs_next h).1]; exact ⟨rfl, rfl⟩
  | fifoWrite h => rw [(State.writeFifo_next h).1]; exact ⟨rfl, rfl⟩
  | fifoRead h => rw [(State.readFifo_next h).1]; exact ⟨rfl, rfl⟩
  | memory | device | mask => exact ⟨rfl, rfl⟩
  | attach h => exact absurd h hsel
  | detach h => exact absurd h hsel

/-- Whatever becomes of the positions, what is recorded and the attachment are as an act left them. -/
theorem HostMove.of_act (h : HostMove sel s t) :
    ∃ u, Acts sel s u ∧ t.book = u.book ∧ t.seq.irqAttached = u.seq.irqAttached ∧ t.seq.irqCtx = u.seq.irqCtx := by
  have hdeliver (u : State) (r : OpResult) : (u.deliver r).book = u.book ∧
      (u.deliver r).seq.irqAttached = u.seq.irqAttached ∧ (u.deliver r).seq.irqCtx = u.seq.irqCtx := by
    obtain ⟨-, -, -, -, hbook, -, -, hatt, hctx⟩ := u.deliver_keeps r
    exact ⟨hbook, hatt, hctx⟩
  cases h with
  | act ha => exact ⟨t, ha, rfl, rfl, rfl⟩
  | @move u _ _ _ ha => exact ⟨u, ha, rfl, rfl, rfl⟩
  | @push u _ ha => exact ⟨u, ha, rfl, rfl, rfl⟩
  | @deliver u r ha => exact ⟨u, ha, hdeliver u r⟩
  | @finish u r ha => exact ⟨u, ha, hdeliver u.pop r⟩

/-- R58: a HOST step that goes on records neither a fault nor a refusal. -/
theorem HeldMove.records (h : HeldMove sel s t) :
    t.book.faults = s.book.faults ∧ t.book.refused = s.book.refused := by
  obtain ⟨s', t', hs, hm, ht⟩ := h
  obtain ⟨u, ha, hbook, -, -⟩ := hm.of_act
  obtain ⟨hf, hr⟩ := State.records_of_held ht
  obtain ⟨-, -, hf', hr'⟩ := ha.keeps
  obtain ⟨hf'', hr''⟩ := State.records_of_held hs
  exact ⟨by rw [hf, hbook, hf', hf''], by rw [hr, hbook, hr', hr'']⟩

/-- R53: a HOST step changes the attachment only where SELECT acts. -/
theorem HeldMove.attachment (h : HeldMove sel s t) (hsel : ¬ sel) :
    t.seq.irqAttached = s.seq.irqAttached ∧ t.seq.irqCtx = s.seq.irqCtx := by
  obtain ⟨s', t', hs, hm, ht⟩ := h
  obtain ⟨u, ha, -, hatt, hctx⟩ := hm.of_act
  obtain ⟨hatt', hctx'⟩ := ha.attachment hsel
  rw [State.seq_of_held ht, ← State.seq_of_held hs, hatt, hctx]
  exact ⟨hatt', hctx'⟩

/-- R190: LOAD takes the oldest byte of the TX FIFO into the shift register. -/
theorem State.load_frame (h : s.loadEnabled = true) :
    ∃ b q m env, s.eng.txq = b :: q ∧ s.load =
      { s with
        eng := { s.eng with txq := q, shTx := b, shRx := 0x00#8, busy := true, edge := 0, sclk := s.cpol, mosi := m }
        env := env } := by
  cases hq : s.eng.txq with
  | nil => simp [State.loadEnabled, hq] at h
  | cons b q =>
    obtain ⟨m, env, hload, -⟩ := State.load_cons hq
    exact ⟨b, q, m, env, rfl, hload⟩

/-- R218: an ENGINE step leaves the sequencer alone and records neither a fault nor a refusal. -/
theorem engineStep_keeps (h : engineStep s = .next t) :
    t.seq = s.seq ∧ t.book.faults = s.book.faults ∧ t.book.refused = s.book.refused := by
  obtain ⟨-, ⟨hl, rfl⟩ | ⟨-, -, rfl⟩ | ⟨-, -, rfl⟩⟩ := engineStep_next h
  · obtain ⟨b, q, m, env, -, hload⟩ := State.load_frame hl
    rw [hload]; exact ⟨rfl, rfl, rfl⟩
  · obtain ⟨shRx, m, k, env, hedge, -, -⟩ := s.edgeStep_frame
    rw [hedge]; exact ⟨rfl, rfl, rfl⟩
  · exact ⟨rfl, rfl, rfl⟩

end Sys2Proof.Machine
end

/-! ## One step of the machine, and the attachment (R7, R53) -/

section
namespace Sys2Proof.Machine

open Sys2Proof.Spec

variable {s t : State}

/-- R7: a step of the machine, by the agent that took it. -/
theorem step_move (h : step s = .next t) :
    s.runStop = none ∧
    (HeldMove (selecting s) s t ∨
     (∃ u v, u.held = s.held ∧ engineStep u = .next v ∧ t.held = v.held) ∨
     (s.seq.irqAttached = true ∧ t.held = s.enterInterrupt.held)) := by
  obtain ⟨hr, a, u, v, hchoose, hagent, rfl⟩ := step_next h
  obtain ⟨hu, -, -⟩ := State.chooseAgent_frame hchoose
  generalize u.env = env at hu
  subst hu
  refine ⟨hr, ?_⟩
  cases a with
  | host =>
    obtain ⟨s', t', hs, hm, ht⟩ := hostStep_move (s := { s with env := env }) hagent
    exact .inl ⟨s', t', hs, hm, ht⟩
  | engine => exact .inr (.inl ⟨{ s with env := env }, v, rfl, hagent, rfl⟩)
  | delivery =>
    obtain ⟨hatt, rfl⟩ := deliveryStep_next hagent
    exact .inr (.inr ⟨hatt, rfl⟩)

/-- Settles O58: the HOST acts on the line only while it is selecting, and the other agents leave the attachment. -/
theorem onlySelectChangesTheAttachment : Obligations.OnlySelectChangesTheAttachment := by
  intro s t h hsel
  obtain ⟨-, hmove | ⟨u, v, hu, hv, ht⟩ | ⟨-, ht⟩⟩ := step_move h
  · exact hmove.attachment hsel
  · rw [State.seq_of_held ht, (engineStep_keeps hv).1, State.seq_of_held hu]; exact ⟨rfl, rfl⟩
  · rw [State.seq_of_held ht]; exact ⟨rfl, rfl⟩

end Sys2Proof.Machine
end

/-! ## The end of a run (R57, R58, R330, R333) -/

section
namespace Sys2Proof.Machine

open Sys2Proof.Spec

variable {s t : State}

/-- A step that goes on records neither a fault nor a refusal. -/
theorem step_records (h : step s = .next t) :
    t.book.faults = s.book.faults ∧ t.book.refused = s.book.refused := by
  obtain ⟨-, hmove | ⟨u, v, hu, hv, ht⟩ | ⟨-, ht⟩⟩ := step_move h
  · exact hmove.records
  · obtain ⟨hf, hr⟩ := State.records_of_held ht
    obtain ⟨hf', hr'⟩ := State.records_of_held hu
    obtain ⟨-, hf'', hr''⟩ := engineStep_keeps hv
    exact ⟨by rw [hf, hf'', hf'], by rw [hr, hr'', hr']⟩
  · exact State.records_of_held (s := s.enterInterrupt) ht

/-- A fault has the code that R330 tables. -/
theorem Fault.code_of_recordedAs {f : Fault} {c : FaultCode} (h : recordedAs f c) : f.code = some c := by
  rcases h with ⟨_, rfl, rfl⟩ | ⟨_, rfl, rfl⟩ | ⟨_, rfl, rfl⟩ | ⟨_, _, rfl, rfl⟩ | ⟨_, _, rfl, rfl⟩ |
    ⟨_, _, rfl, rfl⟩ | ⟨_, rfl, rfl⟩ | ⟨_, rfl, rfl⟩ <;> rfl

/-- R330: the first fault recorded. -/
theorem State.raise_first {f : Fault} {c : FaultCode} (hf : s.book.faults = []) (hc : f.code = some c) :
    s.raise f = { s with book.faults := [c] } := by
  simp [State.raise, hc, hf]

/-- R333: every refusal but that of a complete run is recorded. -/
theorem settle_of_refused {r : Refusal} (h : step s = .refused r) (hr : r ≠ .runComplete) : settle s = s.refuse := by
  unfold settle
  rw [h]
  cases r with
  | runComplete => exact absurd rfl hr
  | _ => rfl

/-- Settles O8: what is recorded stops the next step before an agent moves, no act records anything, and `settle`
records the end of the step. -/
theorem recordedFaultOrRefusalEndsTheRun : Obligations.RecordedFaultOrRefusalEndsTheRun := by
  refine ⟨fun s hf => ?_, fun s hf hr => ?_, fun s t h => ?_, fun s f c hf h hc => ?_, fun s r h hr => ?_⟩
  · exact step_of_runStop (by simp [State.runStop, hf])
  · exact step_of_runStop (by simp [State.runStop, hf, hr])
  · obtain ⟨hf, hr, -, -⟩ := State.runStop_none (step_move h).1
    obtain ⟨hf', hr'⟩ := step_records h
    exact ⟨hf'.trans hf, hr'.trans hr⟩
  · rw [← State.raise_first hf (Fault.code_of_recordedAs hc)]
    unfold settle
    rw [h]
  · exact settle_of_refused h (by rintro rfl; simp at hr)

end Sys2Proof.Machine
end

/-! ## The HOST's turn (R120) -/

section
namespace Sys2Proof.Machine

variable {s : State}

/-- When the HOST is chosen, the step is its own step and a new instant. -/
theorem step_of_host {s1 : State} (hr : s.runStop = none) (hc : s.chooseAgent = some (.host, s1)) :
    step s = andThen (hostStep s1) fun t => .next t.tick := by
  unfold step
  rw [hr, hc]
  rfl

/-- Issuing an instruction, with more to do after it. -/
theorem issue_andThen (i : Instr) (dst : Option Nat) (s : State) (f : State → StepResult) :
    andThen (issue i dst s) f = andThen (exec i (s.issued dst)) fun t => f (t.lineDone i) := by
  unfold issue
  cases exec i (s.issued dst) <;> rfl

/-- Bytes that decode issue their instruction. -/
theorem runBytes_of_decode {bytes rest : List Byte} {i : Instr} (h : decode bytes = .ok (i, rest)) (dst : Option Nat)
    (s : State) : runBytes bytes dst s = issue i dst s := by
  unfold runBytes
  rw [h]

/-- Settles O4: the line at hand issues i, and choosing the HOST has changed the environment alone. -/
theorem stepRunsTheDecodedInstruction : Obligations.StepRunsTheDecodedInstruction := by
  intro s s1 dst i hr hchoose ⟨hctx, hthread⟩ hline
  have hs1 := State.chooseAgent_frame hchoose
  refine ⟨?_, hs1⟩
  have hq : s1.seq = s.seq := by rw [hs1.1]
  have hh : s1.host = s.host := by rw [hs1.1]
  have hstep {l : HostLine} (hl : s.host.lines[s.host.pc]? = some l) : hostStep s1 = runLine l s1 :=
    hostStep_line (by rw [hq, hctx]) (by rw [hq, hthread]) (by rw [hh, hl])
  have hissue : hostStep s1 = issue i dst s1 := by
    rcases hline with hl | ⟨bytes, rest, hd, -, hl | ⟨w, e, v, hl, hv, rfl, rfl⟩⟩
    · exact hstep hl
    · rw [hstep hl]; exact runBytes_of_decode hd dst s1
    · rw [hstep hl]
      simp only [runLine, hh, hv]
      exact runBytes_of_decode hd none s1
  rw [step_of_host hr hchoose, hissue, issue_andThen]

end Sys2Proof.Machine
end

/-! ## The invariant -/

section
namespace Sys2Proof.Machine

open Sys2Proof.Spec

/-! ### The running operations -/

/-- What the invariant asks of a context's operations, innermost first. -/
def StackOk : Ctx → List Frame → Prop
  | .thread, l => threadShape l = true
  | .interrupt, l => intrShape l = true ∧ ∀ f ∈ l, f.savedMask ≠ some true

@[simp] theorem Frame.resume_operation (r : OpResult) (f : Frame) : (f.resume r).operation = f.operation := by
  unfold Frame.resume
  repeat' split
  all_goals rfl

/-- A TRANSFER goes on with the mask it has saved. -/
@[simp] theorem Frame.resume_savedMask (r : OpResult) (f : Frame) : (f.resume r).savedMask = f.savedMask := by
  unfold Frame.resume
  repeat' split
  all_goals rfl

/-- The shapes of the thread context's operations: each begins where it may. -/
theorem threadShape_cons (f : Frame) (l : List Frame) :
    threadShape (f :: l) = true ↔ f.operation.startsOn .thread l ∧ threadShape l = true := by
  cases l with
  | nil => cases f <;> simp [threadShape]
  | cons g l =>
    cases f with
    | initF | selectF | handlerF => simp [threadShape]
    | transferF => cases g <;> simp [threadShape, Frame.awaitsTransfer]
    | pumpF => cases g <;> cases l <;> simp [threadShape, Frame.awaitsPump]

/-- The shapes of the interrupt context's operations: each begins where it may. -/
theorem intrShape_cons (f : Frame) (l : List Frame) :
    intrShape (f :: l) = true ↔ f.operation.startsOn .interrupt l ∧ intrShape l = true := by
  cases l with
  | nil => cases f <;> simp [intrShape]
  | cons g l =>
    cases f with
    | initF | selectF | handlerF => simp [intrShape]
    | transferF => cases g <;> cases l <;> simp [intrShape, Frame.awaitsTransfer]
    | pumpF => cases g <;> rcases l with _ | ⟨k, _ | _⟩ <;> simp [intrShape, Frame.awaitsPump]

/-- An operation runs where it may begin, above operations that may run, and holds no mask it may not. -/
theorem stackOk_cons {c : Ctx} {f : Frame} {l : List Frame} :
    StackOk c (f :: l) ↔
      f.operation.startsOn c l ∧ StackOk c l ∧ (c = .interrupt → f.savedMask ≠ some true) := by
  cases c with
  | thread => simp [StackOk, threadShape_cons]
  | interrupt =>
    simp only [StackOk, intrShape_cons, List.forall_mem_cons, true_implies]
    tauto

theorem StackOk.tail {c : Ctx} {l : List Frame} (h : StackOk c l) : StackOk c l.tail := by
  cases l with
  | nil => exact h
  | cons f l => exact (stackOk_cons.mp h).2.1

/-- The innermost position may become any of the same operation that holds no mask it may not. -/
theorem StackOk.replace {c : Ctx} {f f' : Frame} {l : List Frame} (h : StackOk c (f :: l))
    (hop : f'.operation = f.operation) (hm : c = .interrupt → f'.savedMask ≠ some true) : StackOk c (f' :: l) := by
  obtain ⟨hstart, hl, -⟩ := stackOk_cons.mp h
  exact stackOk_cons.mpr ⟨hop ▸ hstart, hl, hm⟩

theorem StackOk.resume {c : Ctx} {f : Frame} {l : List Frame} (h : StackOk c (f :: l)) (r : OpResult) :
    StackOk c (f.resume r :: l) :=
  h.replace (f.resume_operation r) (f.resume_savedMask r ▸ (stackOk_cons.mp h).2.2)

/-! ### What keeps the invariant -/

variable {sel : Prop} {s t : State}

/-- The invariant speaks of nothing that is not held. -/
theorem Inv.of_held (hi : Inv s) (h : t.held = s.held) : Inv t := by
  obtain ⟨_, ⟨_, _, _, _, _⟩, _, _, _, _, ⟨_, _, _⟩, _⟩ := s
  obtain ⟨_, ⟨_, _, _, _, _⟩, _, _, _, _, ⟨_, _, _⟩, _⟩ := t
  simp only [State.held, Prod.mk.injEq] at h
  obtain ⟨rfl, rfl, rfl, rfl, rfl, -, -⟩ := h
  exact { hi with }

theorem Inv.stackOk (hi : Inv s) : StackOk s.seq.ctx s.stack := by
  cases hc : s.seq.ctx with
  | thread => rw [State.stack_thread hc]; exact hi.threadOk
  | interrupt => rw [State.stack_interrupt hc]; exact ⟨hi.intrOk, hi.savedMasked⟩

theorem Inv.setStack (hi : Inv s) {l : List Frame} (hl : StackOk s.seq.ctx l) : Inv (s.setStack l) := by
  cases hc : s.seq.ctx with
  | thread =>
    rw [State.setStack_thread hc]
    rw [hc] at hl
    exact { hi with threadOk := hl }
  | interrupt =>
    rw [State.setStack_interrupt hc]
    rw [hc] at hl
    exact { hi with
      threadOnly := fun h => by rw [hc] at h; cases h
      intrOk := hl.1
      savedMasked := hl.2 }

/-- R341: taking an interrupt whose line is attached. -/
theorem Inv.enterInterrupt (hi : Inv s) (ha : s.seq.irqAttached = true) : Inv s.enterInterrupt :=
  { hi with
    threadOnly := fun _ => rfl
    handlerMasked := fun _ => rfl
    handlerAttached := fun _ => ha
    intrOk := rfl
    savedMasked := fun _ hf => nomatch hf }

/-- R341: returning from it. -/
theorem Inv.returnFromInterrupt (hi : Inv s) : Inv s.returnFromInterrupt :=
  { hi with
    threadOnly := fun _ => rfl
    handlerMasked := fun h => nomatch h
    handlerAttached := fun h => nomatch h
    intrOk := rfl
    savedMasked := fun _ hf => nomatch hf }

theorem Inv.deliver (hi : Inv s) (r : OpResult) : Inv (s.deliver r) := by
  rcases s.deliver_cases r with ⟨f, l, hs, h⟩ | ⟨-, -, h⟩ | ⟨-, -, h⟩ <;> rw [h]
  · exact hi.setStack ((hs ▸ hi.stackOk).resume r)
  · exact hi.of_held rfl
  · exact hi.returnFromInterrupt

theorem Inv.finish (hi : Inv s) (r : OpResult) : Inv (s.finish r) := (hi.setStack hi.stackOk.tail).deliver r

theorem clearedBy_length_le (w m : Word) (q : List Byte) : (clearedBy w m q).length ≤ q.length := by
  unfold clearedBy
  split
  · exact Nat.zero_le _
  · exact Nat.le_refl _

/-- R141 to R144: a CS write that completes stores RW fields only, and does not take TA from a byte in flight. -/
theorem Inv.writeCs (hi : Inv s) {w : Word} (h : s.writeCs w = .next t) : Inv t := by
  obtain ⟨rfl, -, hmid⟩ := State.writeCs_next h
  exact { hi with
    csStoredOnly := clean_of_and_mask w csStored
    txBound := (clearedBy_length_le w CLEAR_TX _).trans hi.txBound
    rxBound := (clearedBy_length_le w CLEAR_RX _).trans hi.rxBound
    busyActive := fun hb => by
      have hw : Word.has w TA = true := by
        by_contra hw
        exact hmid ⟨hi.busyActive hb, by simpa using hw, hb⟩
      rw [has_TA] at hw
      rw [ta_eq, State.writeDone_bank, BitVec.getLsbD_and, hw]
      decide
    rxRoom := fun hb hp => (clearedBy_length_le w CLEAR_RX _).trans_lt (hi.rxRoom hb hp) }

/-- R150: a FIFO write that completes found room. -/
theorem Inv.writeFifo (hi : Inv s) {w : Word} (h : s.writeFifo w = .next t) : Inv t := by
  obtain ⟨rfl, -, -, -, -, hfull⟩ := State.writeFifo_next h
  have hbound := hi.txBound
  exact { hi with
    txBound := by
      simp only [State.writeDone_eng, State.writeDone_cfg, List.length_append, List.length_singleton]
      omega }

/-- R154. -/
theorem Inv.readFifo (hi : Inv s) (h : s.readFifo = .next t) : Inv t := by
  obtain ⟨rfl, -, -, -, -⟩ := State.readFifo_next h
  have hle : s.eng.rxq.tail.length ≤ s.eng.rxq.length := by simp
  exact { hi with
    rxBound := hle.trans hi.rxBound
    rxRoom := fun hb hp => hle.trans_lt (hi.rxRoom hb hp) }

theorem Inv.updateDev (hi : Inv s) (d : Nat) {f : LogicalDevice → LogicalDevice}
    (hf : ∀ D, inInt32 D.remaining = true → inInt32 (f D).remaining = true) : Inv (s.updateDev d f) :=
  { hi with
    ctxDevice := fun e he => by
      rw [State.updateDev_devs, List.length_modify]
      exact hi.ctxDevice e he
    remainingRange := fun D hD => by
      obtain ⟨i, hlt, rfl⟩ := List.getElem_of_mem hD
      simp only [State.updateDev_devs, List.length_modify] at hlt
      have hrange := hi.remainingRange _ (List.getElem_mem hlt)
      simp only [State.updateDev_devs, List.getElem_modify]
      split
      · exact hf _ hrange
      · exact hrange }

/-- R263, R341: in interrupt context no running operation restores a mask of 1. -/
theorem Inv.setMask (hi : Inv s) {b : Bool}
    (hb : s.seq.ctx = .interrupt → b = true → ∃ f ∈ s.stack, f.savedMask = some true) :
    Inv { s with seq.ie := b } :=
  { hi with
    handlerMasked := fun hc => by
      cases b with
      | false => rfl
      | true =>
        obtain ⟨f, hf, hm⟩ := hb hc rfl
        exact absurd hm (hi.savedMasked f (State.stack_interrupt hc ▸ hf)) }

theorem Inv.acts (hi : Inv s) (h : Acts sel s t) : Inv t := by
  cases h with
  | quiet h => exact hi.of_held h
  | csWrite h => exact hi.writeCs h
  | fifoWrite h => exact hi.writeFifo h
  | fifoRead h => exact hi.readFifo h
  | memory a v => exact { hi with memWf := State.memStore_wf hi.memWf a v }
  | device d hf => exact hi.updateDev d hf
  | mask b hb => exact hi.setMask hb
  | attach _ hd =>
    exact { hi with
      handlerAttached := fun _ => rfl
      attachedCtx := rfl
      ctxDevice := fun e he => by cases he; exact hd }
  | detach _ hc =>
    exact { hi with
      handlerAttached := fun h => by cases hc.symm.trans h
      attachedCtx := rfl
      ctxDevice := fun e he => nomatch he }

theorem Inv.hostMove (hi : Inv s) (h : HostMove sel s t) : Inv t := by
  cases h with
  | act ha => exact hi.acts ha
  | @move u f f' l ha hs hop hm =>
    obtain ⟨hctx, hstack, -, -⟩ := ha.keeps
    refine (hi.acts ha).setStack ?_
    rw [hctx, hstack, hs]
    refine (hs ▸ hi.stackOk).replace hop fun hc => ?_
    rcases hm with hm | hm <;> rw [hm]
    · simp
    · simp [hi.handlerMasked hc]
  | push ha hstart hm =>
    obtain ⟨hctx, hstack, -, -⟩ := ha.keeps
    refine (hi.acts ha).setStack ?_
    rw [hctx, hstack]
    exact stackOk_cons.mpr ⟨hstart, hi.stackOk, fun _ => by simp [hm]⟩
  | deliver r ha => exact (hi.acts ha).deliver r
  | finish r ha => exact (hi.acts ha).finish r

theorem Inv.heldMove (hi : Inv s) (h : HeldMove sel s t) : Inv t := by
  obtain ⟨s', t', hs, hm, ht⟩ := h
  exact ((hi.of_held hs).hostMove hm).of_held ht

/-- R196: a STORE with no room loses the byte. -/
theorem State.store_rxBound (s : State) (h : s.eng.rxq.length ≤ s.cfg.fifoDepth) :
    s.store.eng.rxq.length ≤ s.cfg.fifoDepth := by
  simp only [State.store]
  split
  · simpa using ‹_›
  · exact h

/-- R190, R191, R193: the ENGINE's steps. -/
theorem Inv.engineStep (hi : Inv s) (h : engineStep s = .next t) : Inv t := by
  obtain ⟨-, ⟨hl, rfl⟩ | ⟨-, he, rfl⟩ | ⟨-, -, rfl⟩⟩ := engineStep_next h
  · obtain ⟨b, q, m, env, hq, hload⟩ := State.load_frame hl
    have hbound := hi.txBound
    simp only [hq, List.length_cons] at hbound
    simp only [State.loadEnabled, Bool.and_eq_true, Bool.or_eq_true, beq_iff_eq, decide_eq_true_eq] at hl
    obtain ⟨⟨⟨hta, -⟩, -⟩, hroom⟩ := hl
    rw [hload]
    exact { hi with
      txBound := Nat.le_of_succ_le hbound
      edgeBound := Nat.zero_le _
      idleEdge := fun _ => rfl
      busyActive := fun _ => hta
      rxRoom := fun _ hp => hroom.resolve_left (by rw [hp]; decide) }
  · obtain ⟨shRx, m, k, env, hedge, -, -⟩ := s.edgeStep_frame
    simp only [State.edgeEnabled, Bool.and_eq_true, decide_eq_true_eq] at he
    obtain ⟨⟨-, hbusy⟩, hlt⟩ := he
    rw [hedge]
    exact { hi with
      edgeBound := hlt
      idleEdge := fun hb => by rw [hbusy] at hb; cases hb }
  · exact { hi with
      rxBound := s.store_rxBound hi.rxBound
      edgeBound := Nat.zero_le _
      idleEdge := fun _ => rfl
      busyActive := fun hb => nomatch hb
      rxRoom := fun hb => nomatch hb }

/-- Settles O7: the HOST's moves, the ENGINE's steps and an interrupt entry each keep the invariant. -/
theorem stepKeepsTheInvariant : Obligations.StepKeepsTheInvariant := by
  intro s t hi h
  obtain ⟨-, hmove | ⟨u, v, hu, hv, ht⟩ | ⟨ha, ht⟩⟩ := step_move h
  · exact hi.heldMove hmove
  · exact ((hi.of_held hu).engineStep hv).of_held ht
  · exact (hi.enterInterrupt ha).of_held ht

end Sys2Proof.Machine
end

/-! ## Ends of operations, by what stands below them (R320, R326) -/

section
namespace Sys2Proof.Machine

variable {s : State}

@[simp] theorem State.setStack_setStack (s : State) (l m : List Frame) : (s.setStack l).setStack m = s.setStack m := by
  unfold State.setStack
  cases s.seq.ctx <;> rfl

/-- A move writes the innermost position and keeps the operations below it. -/
theorem State.moveTo_eq_setStack {f : Frame} {l : List Frame} (hs : s.stack = f :: l) (f' : Frame) :
    s.moveTo f' = s.setStack (f' :: l) := by
  rw [State.moveTo, hs, List.tail_cons]

/-- An operation that was called ends by resuming its caller. -/
theorem State.finish_to_caller {f g : Frame} {l : List Frame} (hs : s.stack = f :: g :: l) (r : OpResult) :
    s.finish r = s.setStack (g.resume r :: l) := by
  have hpop : s.pop.stack = g :: l := by rw [State.stack_pop, hs, List.tail_cons]
  rw [State.finish, State.deliver_call hpop, State.pop, State.setStack_setStack]

/-- An operation that the program issued ends by giving the program its result. -/
theorem State.finish_to_program {f : Frame} (hc : s.seq.ctx = .thread) (hs : s.stack = [f]) (r : OpResult) :
    s.finish r = ({ s with seq.thread := [] } : State).endCommand r := by
  have hpop : s.pop = { s with seq.thread := [] } := by rw [State.pop, hs, List.tail_cons, State.setStack_thread hc]
  have hempty : s.pop.stack = [] := by rw [State.stack_pop, hs, List.tail_cons]
  rw [State.finish, State.deliver_program (s := s.pop) hc hempty, hpop]

end Sys2Proof.Machine
end

/-! ## CS reads, and writes of what they answered (R86, R140, R141) -/

section
namespace Sys2Proof.Machine

open Sys2Proof.Spec

variable {s : State}

/-- A clean CS word holds no bit outside the model's own stored fields. -/
theorem storedOnly_of_csClean (h : csClean s) : s.bank.cs &&& ~~~csStored = 0#32 := csStored_eq ▸ h

theorem recorded_recorded (b : Book) (es fs : List Event) : recorded (recorded b es) fs = recorded b (es ++ fs) := by
  simp [recorded]

/-- R86, R143: while TA = 1, OR-ing in bits that are no configuration field changes none. -/
theorem config_or_of_allowed {cs m : Word} (h : cs.getLsbD 7 = false ∨ m &&& cfgBits = 0#32)
    (hta : cs.getLsbD 7 = true) : (cs ||| m) &&& csConfig = cs &&& csConfig := by
  rcases h with hoff | hcfg
  · rw [hoff] at hta; cases hta
  · have hm : m &&& csConfig = 0#32 := csConfig_eq ▸ hcfg
    rw [or_and_distrib, hm, BitVec.or_zero]

/-- Settles O13: the value read, OR-ed with M, stores exactly the old fields and M, writes 0 to both CLEAR bits, and so
meets neither fault condition. -/
theorem readModifyWriteSetsExactlyItsBits : Obligations.ReadModifyWriteSetsExactlyItsBits := by
  intro s m hclean hm hallowed
  have hcs := storedOnly_of_csClean hclean
  have hm' : m &&& ~~~csStored = 0#32 := csStored_eq ▸ hm
  obtain ⟨hclearTx, hclearRx⟩ := csRdata_clear hcs
  have htx : (s.csRdata ||| m).getLsbD 4 = false := by
    rw [BitVec.getLsbD_or, hclearTx, getLsbD_of_clean hm' (by decide), Bool.false_or]
  have hrx : (s.csRdata ||| m).getLsbD 5 = false := by
    rw [BitVec.getLsbD_or, hclearRx, getLsbD_of_clean hm' (by decide), Bool.false_or]
  have hstored : (s.csRdata ||| m) &&& csStored = s.bank.cs ||| m := by
    rw [csRdata_or_and_stored hcs, and_mask_of_clean hm']
  have hkeepsTa : s.bank.cs.getLsbD 7 = true → (s.bank.cs ||| m).getLsbD 7 = true := fun hta => by
    rw [BitVec.getLsbD_or, hta, Bool.true_or]
  have hwrite := State.writeCs_stores (s := s.readCs) hstored (fun hta _ => config_or_of_allowed hallowed hta)
    (fun hta _ => hkeepsTa hta)
  rw [htx, hrx] at hwrite
  have hbook : recorded s.book [csReadEv s.csRdata, csWriteEv (s.csRdata ||| m)] =
      recorded s.readCs.book [csWriteEv (s.csRdata ||| m)] :=
    (recorded_recorded s.book [csReadEv s.csRdata] [csWriteEv (s.csRdata ||| m)]).symm
  refine ⟨s.readCs, s.csRdata, s.drawn.env, rfl, rfl, ?_⟩
  rw [hbook]
  exact hwrite

end Sys2Proof.Machine
end

/-! ## Busy-waits whose flag stays 0 (R102, R326) -/

section
namespace Sys2Proof.Machine

open Sys2Proof.Spec

variable {s : State} {d : Nat} {src dst : Option Nat} {n : Word} {q : TransferRequest} {wait : Nat → PumpPos} {p : Nat}
  {l : List Frame}

/-- R102, R326: a poll whose flag reads 0, with more of them to come, polls again. -/
theorem State.poll_again {flag : Word} (hflag : Word.has s.csRdata flag = false)
    (hmore : s.cfg.timeout = none ∨ ∃ k, s.cfg.timeout = some k ∧ p + 1 < k) (met : State → State) (again : Frame) :
    s.poll flag p met again = s.readCs.moveTo again := by
  rcases hmore with ht | ⟨k, ht, hk⟩
  · simp [State.poll, hflag, ht]
  · simp [State.poll, hflag, ht, Nat.not_le.mpr hk]

/-- R326: a poll whose flag reads 0, the last of them, ends PUMP with HardwareTimeout. -/
theorem State.poll_last {flag : Word} {k : Nat} (hflag : Word.has s.csRdata flag = false)
    (ht : s.cfg.timeout = some k) (hk : k ≤ p + 1) (met : State → State) (again : Frame) :
    s.poll flag p met again = s.readCs.finish .hardwareTimeout := by
  simp [State.poll, hflag, ht, hk]

/-- At an unsatisfied busy-wait PUMP's step is a poll whose flag a CS read shows as 0. -/
theorem pumpAdvance_unsatisfied (hclean : csClean s) (hw : unsatisfiedWait s wait) (d : Nat) (src dst : Option Nat)
    (q : TransferRequest) (p : Nat) :
    ∃ flag met, Word.has s.csRdata flag = false ∧
      pumpAdvance d src dst q (wait p) s = .next (s.poll flag p met (.pumpF d src dst q (wait (p + 1)))) := by
  have hcs := storedOnly_of_csClean hclean
  rcases hw with ⟨rfl, hfull⟩ | ⟨rfl, hempty⟩ | ⟨rfl, hnotDone⟩
  · exact ⟨TXD, _, by rw [has_TXD, csRdata_txd hcs, State.txd]; simpa using hfull, rfl⟩
  · exact ⟨RXD, _, by rw [has_RXD, csRdata_rxd hcs, State.rxd, hempty]; rfl, rfl⟩
  · exact ⟨DONE, _, by rw [has_DONE, csRdata_done hcs, State.done, ta_eq]; simpa using hnotDone, rfl⟩

/-- R326: an unsatisfied poll before the last that P_TIMEOUT admits stands at the same wait. -/
theorem hostStep_polls_again (hclean : csClean s) (hw : unsatisfiedWait s wait)
    (hs : s.stack = .pumpF d src dst q (wait p) :: l)
    (hmore : s.cfg.timeout = none ∨ ∃ k, s.cfg.timeout = some k ∧ p + 1 < k) :
    hostStep s = .next (s.readCs.setStack (.pumpF d src dst q (wait (p + 1)) :: l)) := by
  obtain ⟨flag, met, hflag, hpoll⟩ := pumpAdvance_unsatisfied hclean hw d src dst q p
  have hread : s.readCs.stack = .pumpF d src dst q (wait p) :: l := hs
  rw [hostStep_running hs, advance, hpoll, State.poll_again hflag hmore, State.moveTo_eq_setStack hread]

/-- R326: the last unsatisfied poll that P_TIMEOUT admits gives HardwareTimeout to the operation that called PUMP. -/
theorem hostStep_times_out {f : Frame} {k : Nat} (hclean : csClean s) (hw : unsatisfiedWait s wait)
    (hs : s.stack = .pumpF d src dst q (wait p) :: f :: l) (ht : s.cfg.timeout = some k) (hk : k ≤ p + 1) :
    hostStep s = .next (s.readCs.setStack (f.resume .hardwareTimeout :: l)) := by
  obtain ⟨flag, met, hflag, hpoll⟩ := pumpAdvance_unsatisfied hclean hw d src dst q p
  have hread : s.readCs.stack = .pumpF d src dst q (wait p) :: f :: l := hs
  rw [hostStep_running hs, advance, hpoll, State.poll_last hflag ht hk, State.finish_to_caller hread]

/-! ### The TRANSFER whose PUMP has timed out -/

/-- R266: the re-entrant TRANSFER that a program issued ends with HardwareTimeout. -/
theorem hostStep_abandon_program (hc : s.seq.ctx = .thread) (hs : s.stack = [.transferF d src dst n .abandon]) :
    hostStep s = .next (({ s with seq.thread := [] } : State).endCommand .hardwareTimeout) := by
  rw [← State.finish_to_program hc hs]
  exact hostStep_running hs

/-- R267: the polled TRANSFER restores host.ie and ends with HardwareTimeout. -/
theorem hostStep_leaveCritical_timedOut {saved : Bool} (hc : s.seq.ctx = .thread)
    (hs : s.stack = [.transferF d src dst n (.leaveCritical saved true)]) :
    hostStep s = .next (({ s with seq.ie := saved, seq.thread := [] } : State).endCommand .hardwareTimeout) := by
  have hend := State.finish_to_program (s := { s with seq.ie := saved }) hc hs .hardwareTimeout
  rw [hostStep_running hs]
  exact congrArg Host.Outcome.next hend

/-- R289: IRQ_HANDLER goes on after its chunk, whatever the result. -/
theorem Frame.resume_atChunk {hpos : HandlerPos} (h : atChunk hpos) (e : Nat) (r : OpResult) :
    (Frame.handlerF e hpos).resume r = .handlerF e (afterChunk hpos) := by
  rcases h with ⟨_, rfl⟩ | ⟨_, _, rfl⟩ <;> rfl

/-- R266, R289: the re-entrant TRANSFER of a chunk ends towards IRQ_HANDLER. -/
theorem hostStep_abandon_chunk {e : Nat} {hpos : HandlerPos} (hchunk : atChunk hpos)
    (hs : s.stack = [.transferF d src dst n .abandon, .handlerF e hpos]) :
    hostStep s = .next (s.setStack [.handlerF e (afterChunk hpos)]) := by
  rw [← Frame.resume_atChunk hchunk e .hardwareTimeout, ← State.finish_to_caller hs]
  exact hostStep_running hs

/-- Two steps of the HOST in a row are a run of two. -/
theorem hostRun_two {t u : State} (h1 : hostStep s = .next t) (h2 : hostStep t = .next u) : hostRun 2 s = .next u := by
  rw [hostRun_succ, h1, andThen_next, hostRun_succ, h2, andThen_next, hostRun_zero]

/-- R267: host.ie once a TRANSFER that waited at this position has ended: the polled one restores what it saved. -/
def TransferPos.restoredMask (ie : Bool) : TransferPos → Bool
  | .polledPump saved => saved
  | _ => ie

/-- R326: PUMP's last poll, and the step that ends the TRANSFER a program issued; the polled one restores host.ie. -/
theorem hostRun_times_out_program {pos : TransferPos} {k : Nat} (hclean : csClean s) (hw : unsatisfiedWait s wait)
    (hpos : atPump pos) (hs : s.stack = [.pumpF d src dst q (wait p), .transferF d src dst n pos])
    (ht : s.cfg.timeout = some k) (hk : k ≤ p + 1) (hc : s.seq.ctx = .thread) :
    hostRun 2 s =
      .next (({ s.readCs with
        seq.ie := pos.restoredMask s.seq.ie
        seq.thread := [] } : State).endCommand .hardwareTimeout) := by
  have hpoll := hostStep_times_out hclean hw hs ht hk
  rw [State.setStack_thread (s := s.readCs) hc] at hpoll
  rcases hpos with rfl | ⟨saved, rfl⟩
  · exact hostRun_two hpoll (hostStep_abandon_program hc (State.stack_thread hc))
  · exact hostRun_two hpoll (hostStep_leaveCritical_timedOut hc (State.stack_thread hc))

/-- R326, R289: PUMP's last poll, and the step that ends a chunk's TRANSFER; IRQ_HANDLER goes on. -/
theorem hostRun_times_out_chunk {e k : Nat} {hpos : HandlerPos} (hclean : csClean s) (hw : unsatisfiedWait s wait)
    (hs : s.stack = [.pumpF d src dst q (wait p), .transferF d src dst n .chunkPump, .handlerF e hpos])
    (ht : s.cfg.timeout = some k) (hk : k ≤ p + 1) (hchunk : atChunk hpos) :
    hostRun 2 s = .next (s.readCs.setStack [.handlerF e (afterChunk hpos)]) := by
  have hpoll := hostStep_times_out hclean hw hs ht hk
  have hend := hostStep_abandon_chunk hchunk (s.readCs.stack_setStack [.transferF d src dst n .abandon, .handlerF e hpos])
  rw [State.setStack_setStack] at hend
  exact hostRun_two hpoll hend

/-- Settles O46: PUMP's step is a poll whose flag reads 0; before the bound it polls again, and at the bound it gives
HardwareTimeout to its TRANSFER, whose own next step ends it towards the program or the handler. -/
theorem unsatisfiedWaitPollsAgainOrTimesOut : Obligations.UnsatisfiedWaitPollsAgainOrTimesOut := by
  intro s p d src dst n q wait pos l hclean hw hpos hs
  refine ⟨fun hmore => ?_, fun k ht _ hk => ⟨fun hc hl => ?_, fun e _ hc hchunkPump hl hchunk => ?_⟩⟩
  · exact ⟨s.csRdata, s.drawn.env, ⟨rfl, rfl⟩, hostStep_polls_again hclean hw hs hmore⟩
  · subst hl
    exact ⟨s.csRdata, s.drawn.env, ⟨rfl, rfl⟩, hostRun_times_out_program hclean hw hpos hs ht hk hc⟩
  · subst hchunkPump hl
    have hrun := hostRun_times_out_chunk hclean hw hs ht hk hchunk
    rw [State.setStack_interrupt (s := s.readCs) hc] at hrun
    exact ⟨s.csRdata, s.drawn.env, ⟨rfl, rfl⟩, hrun⟩

end Sys2Proof.Machine
end

/-! ## Decoding encodings (R111, R113, R114, R119) -/

section
namespace Sys2Proof

/-- A data phase that the encoder wrote reads back as the operand of the instruction it belongs to. -/
theorem decodeWrite_bytes32 (f : Word → Instr) (w : Word) (rest : List Byte) :
    decodeWrite f (bytes32 w ++ rest) = .ok (f w, rest) := by
  rw [decodeWrite, take32_bytes32]

/-! R113: the command words of the operations with a record select the reader of that record. -/

theorem decodeCommand_select (d : Nat) (c : Word) (rest : List Byte) :
    decodeCommand (Instr.select d c).commandWord rest = decodeSelect rest := by
  simp [Instr.commandWord, decodeCommand, decodeSeq]

theorem decodeCommand_transfer (d : Nat) (src dst : Option Nat) (n : Word) (rest : List Byte) :
    decodeCommand (Instr.transfer d src dst n).commandWord rest = decodeTransfer rest := by
  simp [Instr.commandWord, decodeCommand, decodeSeq]

theorem decodeCommand_pump (d : Nat) (src dst : Option Nat) (txc rxc : Word) (rest : List Byte) :
    decodeCommand (Instr.pump d src dst txc rxc).commandWord rest = decodePump rest := by
  simp [Instr.commandWord, decodeCommand, decodeSeq]

/-- R114: SELECT's record reads back. -/
theorem decodeSelect_items {d : Nat} (hd : deviceFits d = true) (c : Word) (rest : List Byte) :
    decodeSelect ((Instr.select d c).items ++ rest) = .ok (.select d c, rest) := by
  simp only [Instr.items, List.append_assoc, decodeSelect, takeDevice_bytes32 hd, decodeWrite_bytes32]

/-- R114: TRANSFER's record reads back. -/
theorem decodeTransfer_items {d : Nat} {src dst : Option Nat} (hd : deviceFits d = true) (hsrc : bufferFits src = true)
    (hdst : bufferFits dst = true) (n : Word) (rest : List Byte) :
    decodeTransfer ((Instr.transfer d src dst n).items ++ rest) = .ok (.transfer d src dst n, rest) := by
  simp only [Instr.items, List.append_assoc, decodeTransfer, takeDevice_bytes32 hd, takeBuffer_bytesBuffer hsrc,
    takeBuffer_bytesBuffer hdst, decodeWrite_bytes32]

/-- R114: PUMP's record reads back. -/
theorem decodePump_items {d : Nat} {src dst : Option Nat} (hd : deviceFits d = true) (hsrc : bufferFits src = true)
    (hdst : bufferFits dst = true) (txc rxc : Word) (rest : List Byte) :
    decodePump ((Instr.pump d src dst txc rxc).items ++ rest) = .ok (.pump d src dst txc rxc, rest) := by
  simp only [Instr.items, List.append_assoc, decodePump, takeDevice_bytes32 hd, takeBuffer_bytesBuffer hsrc,
    takeBuffer_bytesBuffer hdst, take32_bytes32, decodeWrite_bytes32]

/-- Settles O1: the command word selects the instruction, and the items after it read back: none, a data phase, or an
argument record. -/
theorem decodeOfEncodeIsTheInstruction : Obligations.DecodeOfEncodeIsTheInstruction := by
  intro i rest hwf
  rw [decode_encode_append]
  cases i with
  | csRead | fifoRead | clkRead | dlenRead | ltohRead | dcRead | init | irqHandler => rfl
  | csWrite w | fifoWrite w | clkWrite w | dlenWrite w | ltohWrite w | dcWrite w =>
    simp [Instr.commandWord, Instr.items, decodeCommand, decodeBus, decodeWrite_bytes32]
  | select d c => exact (decodeCommand_select d c _).trans (decodeSelect_items hwf c rest)
  | transfer d src dst n =>
    simp only [Instr.wellFormed, Bool.and_eq_true] at hwf
    obtain ⟨⟨hd, hsrc⟩, hdst⟩ := hwf
    exact (decodeCommand_transfer d src dst n _).trans (decodeTransfer_items hd hsrc hdst n rest)
  | pump d src dst txc rxc =>
    simp only [Instr.wellFormed, Bool.and_eq_true] at hwf
    obtain ⟨⟨⟨⟨hd, hsrc⟩, hdst⟩, -⟩, -⟩ := hwf
    exact (decodeCommand_pump d src dst txc rxc _).trans (decodePump_items hd hsrc hdst txc rxc rest)

/-- Settles O2: the bytes of each row are the encoding of its instruction, which decodes to it. -/
theorem commandWordsOfTheTableDecode : Obligations.CommandWordsOfTheTableDecode :=
  have decoded (i : Instr) (hwf : i.wellFormed = true) : decode (encode i ++ []) = .ok (i, []) :=
    decodeOfEncodeIsTheInstruction i [] hwf
  ⟨decoded .csRead rfl, decoded (.csWrite 0x00000030#32) rfl, decoded .fifoRead rfl,
    decoded (.clkWrite 0x12345678#32) rfl, decoded .dcRead rfl, decoded .init rfl, decoded .irqHandler rfl⟩

end Sys2Proof
end

/-! ## Words that are no instruction (R110, R112, R116) -/

section
namespace Sys2Proof

/-- R110: what follows a command word is decoded by that word. -/
theorem decode_bytes16_append (w : Half) (rest : List Byte) : decode (bytes16 w ++ rest) = decodeCommand w rest := by
  rw [decode, take16_bytes16]

/-- R116: a BUS word with a reserved bit set. -/
theorem decodeCommand_busReserved {w : Half} (hbus : w.getLsbD 15 = false) (hres : w.extractLsb' 11 4 ≠ 0#4)
    (rest : List Byte) : decodeCommand w rest = .error (.illegalOp w) := by
  simp only [decodeCommand, hbus, hres, Bool.false_eq_true, if_false, ne_eq, not_false_eq_true, if_true]

/-- R116, R84: a BUS word whose SIZE is not 0b10. -/
theorem decodeCommand_busSize {w : Half} (hbus : w.getLsbD 15 = false) (hres : w.extractLsb' 11 4 = 0#4)
    (hsize : w.extractLsb' 9 2 ≠ 0b10#2) (rest : List Byte) : decodeCommand w rest = .error (.busSize w) := by
  simp only [decodeCommand, hbus, hres, hsize, Bool.false_eq_true, if_false, ne_eq, not_true, not_false_eq_true,
    if_true]

/-- R112: a BUS word that passes both checks is decoded by its OFFSET and W. -/
theorem decodeCommand_bus {w : Half} (hbus : w.getLsbD 15 = false) (hres : w.extractLsb' 11 4 = 0#4)
    (hsize : w.extractLsb' 9 2 = 0b10#2) (rest : List Byte) : decodeCommand w rest = decodeBus w rest := by
  simp only [decodeCommand, hbus, hres, hsize, Bool.false_eq_true, if_false, ne_eq, not_true]

/-- R83, R112: an OFFSET that is no register. -/
theorem decodeBus_unmapped {w : Half}
    (hoff : w.extractLsb' 0 8 ∉ [0x00#8, 0x04#8, 0x08#8, 0x0C#8, 0x10#8, 0x14#8]) (rest : List Byte) :
    decodeBus w rest = .error (.busUnmapped w) := by
  simp only [List.mem_cons, List.not_mem_nil, or_false, not_or] at hoff
  obtain ⟨hcs, hfifo, hclk, hdlen, hltoh, hdc⟩ := hoff
  simp only [decodeBus, hcs, hfifo, hclk, hdlen, hltoh, hdc, if_false]

/-- R113: an OP that is no operation. -/
theorem decodeSeq_illegal {w : Half} (hop : w.extractLsb' 0 4 = 0x0#4 ∨ 6 ≤ (w.extractLsb' 0 4).toNat)
    (rest : List Byte) : decodeSeq w rest = .error (.illegalOp w) := by
  have hne (k : BitVec 4) (hlow : 1 ≤ k.toNat) (hhigh : k.toNat ≤ 5) : w.extractLsb' 0 4 ≠ k := by
    rintro rfl
    rcases hop with h0 | h6
    · rw [h0] at hlow; exact absurd hlow (by decide)
    · omega
  simp only [decodeSeq, hne 0x1#4 (by decide) (by decide), hne 0x2#4 (by decide) (by decide),
    hne 0x3#4 (by decide) (by decide), hne 0x4#4 (by decide) (by decide), hne 0x5#4 (by decide) (by decide), if_false]

/-- R116: a SEQ word with a reserved bit set, or with an OP that is no operation. -/
theorem decodeCommand_seqIllegal {w : Half} (hseq : w.getLsbD 15 = true)
    (hbad : w.extractLsb' 4 11 ≠ 0#11 ∨ w.extractLsb' 0 4 = 0x0#4 ∨ 6 ≤ (w.extractLsb' 0 4).toNat)
    (rest : List Byte) : decodeCommand w rest = .error (.illegalOp w) := by
  rw [decodeCommand, if_pos hseq]
  by_cases hres : w.extractLsb' 4 11 = 0#11
  · rw [if_neg (not_not.mpr hres)]
    exact decodeSeq_illegal (hbad.resolve_left (not_not.mpr hres)) rest
  · rw [if_pos hres]

end Sys2Proof

namespace Sys2Proof.Machine

/-- R116: issuing a word that decodes to no instruction stops as its rejection says. -/
theorem runBytes_of_rejected {w : Half} {rest : List Byte} {e : DecodeError} (h : decodeCommand w rest = .error e)
    (dst : Option Nat) (s : State) : runBytes (bytes16 w ++ rest) dst s = decodeStop e := by
  rw [runBytes, decode_bytes16_append, h]

/-- Settles O3: the decoder's checks in R116's order, each rejecting its words once the checks before it pass. -/
theorem illegalEncodingsFaultInOrder : Obligations.IllegalEncodingsFaultInOrder := by
  intro w rest dst s
  refine ⟨fun hbus hres => ?_, fun hseq hbad => ?_, fun hbus hres hsize => ?_, fun hbus hres hsize hoff => ?_⟩
  · exact runBytes_of_rejected (decodeCommand_busReserved hbus hres rest) dst s
  · exact runBytes_of_rejected (decodeCommand_seqIllegal hseq hbad rest) dst s
  · exact runBytes_of_rejected (decodeCommand_busSize hbus hres hsize rest) dst s
  · exact runBytes_of_rejected ((decodeCommand_bus hbus hres hsize rest).trans (decodeBus_unmapped hoff rest)) dst s

end Sys2Proof.Machine
end

/-! ## Device indices out of range (R114, R330) -/

section
namespace Sys2Proof.Machine

variable {s : State} {d : Nat}

/-- A device index has a record exactly when it is below P_NUM_DEVICES. -/
theorem State.dev?_eq_none_iff : s.dev? d = none ↔ s.seq.devs.length ≤ d := List.getElem?_eq_none_iff

theorem State.dev?_isNone_of_lt (h : d < s.seq.devs.length) : (s.dev? d).isNone = false := by
  rw [State.dev?, List.getElem?_eq_getElem h]; rfl

theorem execSelect_of_no_device (h : s.dev? d = none) (c : Word) :
    execSelect d c s = .fault (.illegalOp selectWord) := by
  rw [execSelect, h]

theorem execTransfer_of_no_device (h : s.dev? d = none) (src dst : Option Nat) (n : Word) :
    execTransfer d src dst n s = .fault (.illegalOp transferWord) := by
  rw [execTransfer, h]

theorem execPump_of_no_device (h : s.dev? d = none) (src dst : Option Nat) (txc rxc : Word) :
    execPump d src dst txc rxc s = .fault (.illegalOp pumpWord) := by
  rw [execPump, h]; rfl

/-- Settles O33: each of the three operations looks its device up first. -/
theorem deviceIndexOutOfRangeFaults : Obligations.DeviceIndexOutOfRangeFaults := by
  intro s d src dst c n r hd
  have hnone : s.dev? d = none := State.dev?_eq_none_iff.mpr hd
  exact ⟨execSelect_of_no_device hnone c, execTransfer_of_no_device hnone src dst n,
    execPump_of_no_device hnone src dst n r⟩

end Sys2Proof.Machine
end

/-! ## Who may issue PUMP and IRQ_HANDLER (R114, R250) -/

section
namespace Sys2Proof.Machine

open Sys2Proof.Spec

variable {s : State} {d : Nat} {src dst : Option Nat} {txc rxc : Word}

/-- R114: TRANSFER issues PUMP exactly when it stands innermost at its call, with PUMP's own operands. -/
theorem State.calledByTransfer_iff :
    s.calledByTransfer d src dst txc rxc = true ↔
      ∃ pos l, s.stack = .transferF d src dst txc pos :: l ∧ txc = rxc ∧ atPump pos := by
  constructor
  · intro h
    unfold State.calledByTransfer at h
    split at h
    · next d' src' dst' n l hs =>
      simp only [Bool.and_eq_true, decide_eq_true_eq] at h
      obtain ⟨⟨⟨⟨rfl, rfl⟩, rfl⟩, rfl⟩, rfl⟩ := h
      exact ⟨_, l, hs, rfl, .inl rfl⟩
    · next d' src' dst' n saved l hs =>
      simp only [Bool.and_eq_true, decide_eq_true_eq] at h
      obtain ⟨⟨⟨⟨rfl, rfl⟩, rfl⟩, rfl⟩, rfl⟩ := h
      exact ⟨_, l, hs, rfl, .inr ⟨saved, rfl⟩⟩
    · cases h
  · rintro ⟨pos, l, hs, rfl, rfl | ⟨saved, rfl⟩⟩ <;> simp [State.calledByTransfer, hs]

/-- R250 step 2, R251: the model's loop test is the one of the statements. -/
theorem pumpHead_eq_loopTest (src dst : Option Nat) (q : TransferRequest) :
    pumpHead src dst q = loopTest src dst q := by
  simp only [pumpHead, loopTest, Option.isSome_iff_ne_none]

/-- X6: PUMP of a device that exists, not issued by TRANSFER. -/
theorem execPump_refused (hd : d < s.seq.devs.length) (hcall : s.calledByTransfer d src dst txc rxc = false) :
    execPump d src dst txc rxc s = .refused .internalOp := by
  simp [execPump, State.dev?_isNone_of_lt hd, hcall]

/-- R250 step 1: the first step of PUMP that TRANSFER issues. -/
theorem execPump_called (hd : d < s.seq.devs.length) (hcall : s.calledByTransfer d src dst txc rxc = true) :
    execPump d src dst txc rxc s =
      .next ((s.writeDlen (zextHalf s.cfg.errataDlen)).push
        (.pumpF d src dst (.begin txc rxc) (pumpHead src dst (.begin txc rxc)))) := by
  simp [execPump, State.dev?_isNone_of_lt hd, hcall]

/-- R391: what the write of the errata value to DLEN leaves. -/
theorem State.writeDlen_zextHalf (s : State) (h : Half) :
    s.writeDlen (zextHalf h) =
      { s with bank.dlen := h, book := recorded s.book [.bus .dlenWrite 0x0C#8 (h.setWidth 32)] } := by
  have hlow : (zextHalf h).extractLsb' 0 16 = h := by
    apply BitVec.eq_of_getLsbD_eq
    intro i hi
    simp [zextHalf, hi, show i < 32 by omega]
  rw [State.writeDlen, hlow]
  rfl

/-- X6: IRQ_HANDLER in thread context (R341). -/
theorem execIrqHandler_thread (h : s.seq.ctx = .thread) : execIrqHandler s = .refused .internalOp := by
  rw [execIrqHandler, h]

/-- Settles O41: PUMP's first step asks who calls; with TRANSFER at its call it is the DLEN write and PUMP's position. -/
theorem internalOperationsAreRefusedToPrograms : Obligations.InternalOperationsAreRefusedToPrograms := by
  refine ⟨fun s h => execIrqHandler_thread h, fun s d src dst txc rxc hd => ⟨fun hnot => ?_, ?_⟩⟩
  · refine execPump_refused hd (Bool.eq_false_iff.mpr fun hcall => ?_)
    obtain ⟨pos, l, hs, hcounts, hpos⟩ := State.calledByTransfer_iff.mp hcall
    obtain ⟨hchunk, hpolled⟩ := hnot pos l hs hcounts
    exact hpos.elim hchunk fun ⟨saved, h⟩ => hpolled saved h
  · intro pos l hs hcounts hpos
    have hcall := State.calledByTransfer_iff.mpr ⟨pos, l, hs, hcounts, hpos⟩
    subst hcounts
    refine (execPump_called hd hcall).trans ?_
    rw [State.writeDlen_zextHalf, pumpHead_eq_loopTest]
    rfl

end Sys2Proof.Machine
end

/-! ## Host program lines that are no block operation (R120, R121, R22) -/

section
namespace Sys2Proof.Machine

open Sys2Proof.Spec

variable {vars : List (Nat × HostVal)} {a b : Expr} {x y w : Word} {v : Nat} {s : State}

/-! ### Expressions and conditions -/

theorem evalExpr_or (ha : evalExpr vars a = .ok x) (hb : evalExpr vars b = .ok y) :
    evalExpr vars (.or a b) = .ok (x ||| y) := by
  rw [evalExpr, ha, hb]

theorem evalExpr_and (ha : evalExpr vars a = .ok x) (hb : evalExpr vars b = .ok y) :
    evalExpr vars (.and a b) = .ok (x &&& y) := by
  rw [evalExpr, ha, hb]

theorem evalExpr_not (ha : evalExpr vars a = .ok x) : evalExpr vars (.not a) = .ok (~~~x) := by
  rw [evalExpr, ha]

theorem evalExpr_var_word (h : lookupVar vars v = some (.word w)) : evalExpr vars (.var v) = .ok w := by
  rw [evalExpr, h]

theorem evalExpr_var_unwritten (h : lookupVar vars v = none) : evalExpr vars (.var v) = .error v := by
  rw [evalExpr, h]

theorem evalCond_eq (ha : evalExpr vars a = .ok x) (hb : evalExpr vars b = .ok y) :
    evalCond vars (.eq a b) = .ok (x == y) := by
  rw [evalCond, ha, hb]

theorem evalCond_ne (ha : evalExpr vars a = .ok x) (hb : evalExpr vars b = .ok y) :
    evalCond vars (.ne a b) = .ok (x != y) := by
  rw [evalCond, ha, hb]

/-- The left operand is read first, so its unwritten variable is the one a comparison faults on. -/
theorem evalCond_left_error (ha : evalExpr vars a = .error v) (b : Expr) :
    evalCond vars (.eq a b) = .error v ∧ evalCond vars (.ne a b) = .error v := by
  simp [evalCond, ha]

/-! ### Lines -/

/-- In thread context with nothing running, the HOST's step takes the program's line. -/
theorem hostStep_idle (hi : idle s) {l : HostLine} (hl : s.host.lines[s.host.pc]? = some l) :
    hostStep s = runLine l s :=
  hostStep_line hi.1 hi.2 hl

theorem runLine_ifGoto_eq (ha : evalExpr s.host.vars a = .ok x) (hb : evalExpr s.host.vars b = .ok y) (n : Nat) :
    runLine (.ifGoto (.eq a b) n) s = .next { s with host.pc := if x = y then n else s.host.pc + 1 } := by
  simp [runLine, evalCond_eq ha hb]

theorem runLine_ifGoto_ne (ha : evalExpr s.host.vars a = .ok x) (hb : evalExpr s.host.vars b = .ok y) (n : Nat) :
    runLine (.ifGoto (.ne a b) n) s = .next { s with host.pc := if x = y then s.host.pc + 1 else n } := by
  by_cases hxy : x = y <;> simp [runLine, evalCond_ne ha hb, hxy]

/-- R22: a line whose expression, or the left side of whose comparison, reads an unwritten variable. -/
theorem runLine_unwritten {l : HostLine} {c : Half} {n : Nat} (ha : evalExpr s.host.vars a = .error v)
    (hl : l = .write c a ∨ l = .ifGoto (.eq a b) n ∨ l = .ifGoto (.ne a b) n) :
    runLine l s = .fault (.unwrittenVariable v) := by
  obtain ⟨heq, hne⟩ := evalCond_left_error ha b
  rcases hl with rfl | rfl | rfl
  · rw [runLine, ha]
  · rw [runLine, heq]
  · rw [runLine, hne]

/-- R120: `t <- rd CS` in one step: the CS read, the program past the line, and RDATA in t. -/
theorem runLine_readCs (v : Nat) (s : State) :
    runLine (.command [0x00#8, 0x04#8] (some v)) s = .next (((s.issued (some v)).readCs).lineDone .csRead) := by
  obtain ⟨hdecode, -⟩ := commandWordsOfTheTableDecode
  rw [runLine, runBytes_of_decode hdecode]
  rfl

/-- Settles O54: each clause is what one kind of line does, or one equation of an expression's value. -/
theorem hostLinesMoveTheProgram : Obligations.HostLinesMoveTheProgram := by
  intro s hi
  refine ⟨hostStep_idle hi, hostStep_idle hi, fun n hl => hostStep_idle hi hl, fun a b n x y ha hb => ?_, fun w => rfl,
    fun v w => evalExpr_var_word, fun v => evalExpr_var_unwritten, fun a b v c n ha hl => ?_, fun v hl => ?_⟩
  · refine ⟨fun hl => ?_, fun hl => ?_, evalExpr_or ha hb, evalExpr_and ha hb, evalExpr_not ha⟩
    · exact (hostStep_idle hi hl).trans (runLine_ifGoto_eq ha hb n)
    · exact (hostStep_idle hi hl).trans (runLine_ifGoto_ne ha hb n)
  · rcases hl with hl | hl | hl
    · exact (hostStep_idle hi hl).trans (runLine_unwritten (b := b) (n := n) ha (.inl rfl))
    · exact (hostStep_idle hi hl).trans (runLine_unwritten (c := c) ha (.inr (.inl rfl)))
    · exact (hostStep_idle hi hl).trans (runLine_unwritten (c := c) ha (.inr (.inr rfl)))
  · obtain ⟨hwritten, hothers⟩ := lookupVar_writeVar s.host.vars v (.word (s.issued (some v)).csRdata)
    exact ⟨_, (hostStep_idle hi hl).trans (runLine_readCs v s), rfl, rfl, hwritten, hothers⟩

end Sys2Proof.Machine
end

/-! ## Register transactions (R140 to R167) -/

section
namespace Sys2Proof.Machine

open Sys2Proof.Spec

variable {s : State} {w : Word}

/-- A draw leaves the inputs of the run where they were. -/
theorem State.drawn_sameInputs (s : State) : sameInputs s.drawn.env s.env := ⟨rfl, rfl⟩

/-! ### CS -/

/-- R33: DONE over the bits and levels of the state. -/
theorem State.done_eq (s : State) :
    s.done = (s.bank.cs.getLsbD 7 && decide (s.eng.txq.length = 0) && !s.eng.busy) := by
  have hempty : s.eng.txq.isEmpty = decide (s.eng.txq.length = 0) := by
    rw [Bool.eq_iff_iff, List.isEmpty_iff, decide_eq_true_iff, List.length_eq_zero_iff]
  rw [State.done, ta_eq, hempty]

/-- R36: RXR over the bits and levels of the state. -/
theorem State.rxr_eq (s : State) :
    s.rxr = (s.bank.cs.getLsbD 7 && decide (s.eng.rxq.length ≥ s.cfg.rxrThreshold)) := by
  rw [State.rxr, ta_eq]

/-- Settles O10: RDATA is `csRdata`, whose parts the laws of CS reads give for a clean CS word. -/
theorem csReadReturnsFieldsAndFlags : Obligations.CsReadReturnsFieldsAndFlags := by
  intro s hclean
  have hcs := storedOnly_of_csClean hclean
  have hfields : s.csRdata &&& rwBits = s.bank.cs :=
    calc s.csRdata &&& rwBits
        = s.csRdata &&& csStored := by rw [csStored_eq, rwBits]
      _ = s.bank.cs &&& csStored := csRdata_and_stored s
      _ = s.bank.cs := and_mask_of_clean hcs
  obtain ⟨hclearTx, hclearRx⟩ := csRdata_clear hcs
  exact ⟨s.csRdata, s.drawn.env, rfl, s.drawn_sameInputs, hfields, hclearTx, hclearRx,
    (csRdata_done hcs).trans s.done_eq, csRdata_rxd hcs, csRdata_txd hcs, (csRdata_rxr hcs).trans s.rxr_eq,
    csRdata_rxf hcs⟩

/-- R143: F5, the first check of a CS write. -/
theorem State.writeCs_configActive (hta : s.ta = true) (hkeep : Word.has w TA = true)
    (hchange : w &&& csConfig ≠ s.bank.cs &&& csConfig) : s.writeCs w = .fault (.configActive s.bank.cs w) := by
  rw [State.writeCs, if_pos (by rw [hta, hkeep, bne_iff_ne.mpr hchange]; rfl)]

/-- R144: F6, reached because a write that clears TA is no F5. -/
theorem State.writeCs_taMidbyte (hta : s.ta = true) (hclear : Word.has w TA = false) (hbusy : s.eng.busy = true) :
    s.writeCs w = .fault (.taMidbyte s.bank.cs w) := by
  simp [State.writeCs, hta, hclear, hbusy]

/-- Settles O11: the two conditions are those of `writeCs_of_ok`, and its masks are the words of R24 and R39. -/
theorem csWriteStoresFieldsAndClears : Obligations.CsWriteStoresFieldsAndClears := by
  intro s w hnoChange hnoMidByte
  have hF5 : ¬ (s.ta = true ∧ Word.has w TA = true ∧ w &&& csConfig ≠ s.bank.cs &&& csConfig) := by
    rw [ta_eq, has_TA, csConfig_eq]
    exact hnoChange
  have hF6 : ¬ (s.ta = true ∧ Word.has w TA = false ∧ s.eng.busy = true) := by
    rw [ta_eq, has_TA]
    exact fun ⟨hta, hclear, hbusy⟩ => hnoMidByte ⟨⟨hta, hbusy⟩, hclear⟩
  refine (State.writeCs_of_ok hF5 hF6).trans ?_
  rw [clearedBy, clearedBy, has_CLEAR_TX, has_CLEAR_RX, csStored_eq]
  rfl

/-- Settles O12: each clause is one check of the CS write. -/
theorem csWriteFaultsInOrder : Obligations.CsWriteFaultsInOrder := by
  intro s w hta7
  have hta : s.ta = true := (ta_eq s).trans hta7
  refine ⟨fun hkeep hchange => ?_, fun hclear hbusy => ?_⟩
  · refine State.writeCs_configActive hta ((has_TA w).trans hkeep) ?_
    rw [csConfig_eq]
    exact hchange
  · exact State.writeCs_taMidbyte hta ((has_TA w).trans hclear) hbusy

/-! ### The FIFO port -/

/-- R181: standard mode in the model's own names of the mode bits. -/
theorem modes_of_standardMode (h : standardMode s) : s.dmaen = false ∧ s.len = false ∧ s.ren = false := by
  rw [dmaen_eq, len_eq, ren_eq]
  exact h

/-- X1: both FIFO accesses check DMAEN first. -/
theorem State.fifo_dmaMode (w : Word) (hdma : s.dmaen = true) :
    s.writeFifo w = .refused .dmaMode ∧ s.readFifo = .refused .dmaMode :=
  ⟨if_pos hdma, if_pos hdma⟩

/-- F3: both check TA next. -/
theorem State.fifo_inactive (w : Word) (hdma : s.dmaen = false) (hta : s.ta = false) :
    s.writeFifo w = .fault (.fifoInactive BusOp.fifoWrite.commandWord) ∧
      s.readFifo = .fault (.fifoInactive BusOp.fifoRead.commandWord) := by
  simp [State.writeFifo, State.readFifo, hdma, hta]

/-- X2: both check LEN after TA. -/
theorem State.fifo_lossiMode (w : Word) (hdma : s.dmaen = false) (hta : s.ta = true) (hlen : s.len = true) :
    s.writeFifo w = .refused .lossiMode ∧ s.readFifo = .refused .lossiMode := by
  simp [State.writeFifo, State.readFifo, hdma, hta, hlen]

/-- X3: both check REN after LEN. -/
theorem State.fifo_bidirMode (w : Word) (hdma : s.dmaen = false) (hta : s.ta = true) (hlen : s.len = false)
    (hren : s.ren = true) : s.writeFifo w = .refused .bidirMode ∧ s.readFifo = .refused .bidirMode := by
  simp [State.writeFifo, State.readFifo, hdma, hta, hlen, hren]

/-- F4: the last check of a FIFO write. -/
theorem State.writeFifo_txOverflow (w : Word) (hdma : s.dmaen = false) (hta : s.ta = true) (hlen : s.len = false)
    (hren : s.ren = false) (hfull : s.eng.txq.length = s.cfg.fifoDepth) :
    s.writeFifo w = .fault (.txOverflow BusOp.fifoWrite.commandWord w) := by
  simp [State.writeFifo, hdma, hta, hlen, hren, hfull]

/-- Settles O16: one clause for each check, in the order in which the accesses make them. -/
theorem fifoAccessesStopInOrder : Obligations.FifoAccessesStopInOrder := by
  intro s w
  rw [← dmaen_eq, ← ta_eq, ← len_eq, ← ren_eq]
  refine ⟨State.fifo_dmaMode w, State.fifo_inactive w, State.fifo_lossiMode w, State.fifo_bidirMode w,
    fun hstd hta hfull => ?_⟩
  obtain ⟨hdma, hlen, hren⟩ := modes_of_standardMode hstd
  exact State.writeFifo_txOverflow w hdma hta hlen hren hfull

/-- Settles O14: in standard mode with TA = 1 and room nothing stops the write. -/
theorem fifoWritePushesTheLowByte : Obligations.FifoWritePushesTheLowByte := by
  intro s w hstd hta hroom
  obtain ⟨hdma, hlen, hren⟩ := modes_of_standardMode hstd
  exact State.writeFifo_of_ok w hdma ((ta_eq s).trans hta) hlen hren hroom

/-- Settles O15: in standard mode with TA = 1 nothing stops the read, which takes one draw for the free bits. -/
theorem fifoReadPopsTheOldestByte : Obligations.FifoReadPopsTheOldestByte := by
  intro s hstd hta
  obtain ⟨hdma, hlen, hren⟩ := modes_of_standardMode hstd
  exact ⟨s.fifoRdata, s.drawn.env, s.drawn_sameInputs, State.readFifo_of_ok hdma ((ta_eq s).trans hta) hlen hren,
    fun _ _ => State.fifoRdata_low⟩

/-! ### CLK, DLEN, LTOH and DC -/

/-- R10, R38: a field read under free bits is the low part of RDATA, where the mask of the free bits leaves it alone. -/
theorem low_field_under_free_bits {n : Nat} {mask : Word} (hn : n ≤ 32) (hmask : mask.extractLsb' 0 n = 0#n)
    (field : BitVec n) (free : Word) : (field.setWidth 32 ||| (free &&& mask)).extractLsb' 0 n = field := by
  rw [BitVec.extractLsb'_or, BitVec.extractLsb'_and, hmask, BitVec.and_zero, BitVec.or_zero,
    BitVec.extractLsb'_setWidth_of_le ((Nat.zero_add n).symm ▸ hn), BitVec.extractLsb'_eq_self]

/-- Settles O18: the free bits of each read are a draw masked above its field; DC has none. -/
theorem plainRegisterReadsReturnTheirField : Obligations.PlainRegisterReadsReturnTheirField := by
  intro s
  refine ⟨⟨_, s.drawn.env, rfl, s.drawn_sameInputs, ?_⟩, ⟨_, s.drawn.env, rfl, s.drawn_sameInputs, ?_⟩,
    ⟨_, s.drawn.env, rfl, s.drawn_sameInputs, ?_⟩, rfl⟩
  · exact low_field_under_free_bits (by decide) (by decide) s.bank.cdiv s.drawValue
  · exact low_field_under_free_bits (by decide) (by decide) s.bank.dlen s.drawValue
  · exact low_field_under_free_bits (by decide) (by decide) s.bank.toh s.drawValue

/-- Settles O17: each write is its field's update and its event. -/
theorem plainRegisterWritesStoreTheirField : Obligations.PlainRegisterWritesStoreTheirField :=
  fun _ _ => ⟨rfl, rfl, rfl, rfl⟩

end Sys2Proof.Machine
end

/-! ## The ENGINE's conditions (R181, R190, R191, R193) -/

section
namespace Sys2Proof.Machine

open Sys2Proof.Spec

variable {s t : State} {b : Byte} {q : List Byte}

/-- R181: the mode guard lets an ENGINE step pass in standard mode. -/
theorem State.modeGuard_of_standardMode (h : standardMode s) : s.modeGuard = none :=
  State.modeGuard_none.mpr (modes_of_standardMode h)

/-- R181: with TA = 0 no ENGINE step is enabled. -/
theorem State.engineEnabled_of_inactive (h : s.ta = false) : s.engineEnabled = false := by
  simp [State.engineEnabled, State.loadEnabled, State.edgeEnabled, State.storeEnabled, h]

/-- An ENGINE step that the mode guard refuses. -/
theorem engineStep_of_guard {r : Refusal} (h : s.modeGuard = some r) : engineStep s = .refused r := by
  rw [engineStep, h]

/-- Settles O21: the mode guard is the ENGINE's first check, and in standard mode each of the three steps goes on. -/
theorem engineModeGuardRefuses : Obligations.EngineModeGuardRefuses := by
  intro s
  rw [← dmaen_eq, ← ta_eq, ← len_eq, ← ren_eq]
  refine ⟨State.engineEnabled_of_inactive, fun _ => ⟨fun hdma => ?_, fun hdma hlen => ?_, fun hdma hlen hren => ?_,
    fun hstd => ?_⟩⟩
  · exact engineStep_of_guard (by simp [State.modeGuard, hdma])
  · exact engineStep_of_guard (by simp [State.modeGuard, hdma, hlen])
  · exact engineStep_of_guard (by simp [State.modeGuard, hdma, hlen, hren])
  · rw [engineStep, State.modeGuard_of_standardMode hstd]
    dsimp only
    split
    · exact ⟨_, rfl⟩
    · split <;> exact ⟨_, rfl⟩

/-! ### Which step is taken -/

/-- R190: LOAD is the step with no byte in flight, a byte to send, and room or the drop policy. -/
theorem engineStep_load (hstd : standardMode s) (hl : s.loadEnabled = true) : engineStep s = .next s.load := by
  rw [engineStep, State.modeGuard_of_standardMode hstd]
  exact if_pos hl

/-- R190, R191: with a byte in flight LOAD is not enabled. -/
theorem State.loadEnabled_of_busy (hbusy : s.eng.busy = true) : s.loadEnabled = false := by
  simp [State.loadEnabled, hbusy]

/-- R191: EDGE is the step while a byte in flight has edges left. -/
theorem engineStep_edge (hstd : standardMode s) (hta : s.ta = true) (hbusy : s.eng.busy = true)
    (he : s.eng.edge < 16) : engineStep s = .next s.edgeStep := by
  rw [engineStep, State.modeGuard_of_standardMode hstd]
  simp [State.loadEnabled_of_busy hbusy, State.edgeEnabled, hta, hbusy, he]

/-- R193: STORE is the step after the 16th edge. -/
theorem engineStep_store (hstd : standardMode s) (hbusy : s.eng.busy = true) (he : s.eng.edge = 16) :
    engineStep s = .next s.store := by
  rw [engineStep, State.modeGuard_of_standardMode hstd]
  simp [State.loadEnabled_of_busy hbusy, State.edgeEnabled, he]

/-- R190: what enables LOAD, over the levels of the FIFOs. -/
theorem State.loadEnabled_of_room (hta : s.ta = true) (hbusy : s.eng.busy = false) (hq : s.eng.txq = b :: q)
    (hroom : s.cfg.rxFullPolicy = .drop ∨ s.eng.rxq.length < s.cfg.fifoDepth) : s.loadEnabled = true := by
  rcases hroom with hdrop | hroom
  · simp [State.loadEnabled, hta, hbusy, hq, hdrop]
  · simp [State.loadEnabled, hta, hbusy, hq, hroom]

/-- R194, R196: on a full RX FIFO the stall policy leaves the idle ENGINE no step. -/
theorem State.engineEnabled_of_stall (hbusy : s.eng.busy = false) (hfull : s.cfg.fifoDepth ≤ s.eng.rxq.length)
    (hstall : s.cfg.rxFullPolicy = .stall) : s.engineEnabled = false := by
  simp [State.engineEnabled, State.loadEnabled, State.edgeEnabled, State.storeEnabled, hbusy, hstall,
    Nat.not_lt.mpr hfull]

/-! ### What every step leaves alone -/

/-- Settles O24: LOAD and EDGE write the shift register, the lines and draws; STORE adds the received byte, the DLEN
draw of R197 and the event. -/
theorem engineWritesOnlyItsOwnState : Obligations.EngineWritesOnlyItsOwnState := by
  intro s t h
  obtain ⟨-, ⟨hl, rfl⟩ | ⟨-, -, rfl⟩ | ⟨hl, he, rfl⟩⟩ := engineStep_next h
  · obtain ⟨b, q, -, -, hq, -⟩ := State.load_frame hl
    obtain ⟨m, env, hload, hslave, hsched, -⟩ := State.load_cons hq
    rw [hload]
    exact ⟨rfl, .inl rfl, rfl, rfl, rfl, rfl, rfl, rfl, ⟨hslave, hsched⟩, .inr hl, .inl rfl, .inl rfl⟩
  · obtain ⟨shRx, m, k, env, hedge, hslave, hsched⟩ := s.edgeStep_frame
    rw [hedge]
    exact ⟨rfl, .inl rfl, rfl, rfl, rfl, rfl, rfl, rfl, ⟨hslave, hsched⟩, .inl rfl, .inl rfl, .inl rfl⟩
  · exact ⟨rfl, (ite_eq_or_eq _ _ _).symm, rfl, rfl, rfl, rfl, rfl, rfl, s.drawn_sameInputs, .inl rfl,
      .inr ⟨hl, he⟩, .inr ⟨_, _, _, _, rfl⟩⟩

end Sys2Proof.Machine
end

/-! ## LOAD and EDGE, field by field (R190, R191, R192, R207) -/

section
namespace Sys2Proof.Machine

open Sys2Proof.Spec

variable {s : State}

/-- A bit of a byte after a write of one of its bits. -/
theorem getLsbD_writeBit (v : Byte) {i k : Nat} (hi : i < 8) (hk : k < 8) (b : Bool) :
    (writeBit v i b).getLsbD k = if k = i then b else v.getLsbD k := by
  unfold writeBit
  rw [← BitVec.twoPow_eq]
  by_cases h : k = i
  · subst h
    cases b <;> simp [hi]
  · cases b <;> simp [hk, h]

/-- R191: the next edge is a leading one. -/
def State.leading (s : State) : Bool := s.eng.edge % 2 == 0

/-- R191: the next edge samples: the leading one with CPHA = 0, the trailing one with CPHA = 1. -/
def State.samples (s : State) : Bool := s.leading != s.cpha

/-- R191: what an edge that does not sample drives on MOSI. -/
def State.nextMosi (s : State) : Bool :=
  let j := s.eng.edge / 2
  if s.cpha then s.eng.shTx.getLsbD (7 - j) else if j < 7 then s.eng.shTx.getLsbD (7 - (j + 1)) else s.eng.mosi

/-- R192: the SLAVE's answer costs at most a draw. -/
theorem State.sampled_eq (s : State) :
    s.sampled = { s with env := s.sampled.env } ∧ sameInputs s.sampled.env s.env := by
  unfold State.sampled
  cases s.env.slave with
  | free => exact ⟨rfl, rfl, rfl⟩
  | loopback | constant => exact ⟨rfl, rfl, rfl⟩

/-- R191: an edge that samples. -/
theorem State.edgeStep_samples (h : s.samples = true) :
    s.edgeStep = s.sampleEdge (s.eng.edge / 2) (s.cpol ^^ s.leading) := by
  unfold State.samples State.leading at h
  unfold State.edgeStep State.leading
  cases hc : s.cpha <;> cases hl : s.eng.edge % 2 == 0 <;> simp [hc, hl] at h ⊢

/-- R191: an edge that drives MOSI. -/
theorem State.edgeStep_drives (h : s.samples = false) :
    s.edgeStep = s.driveEdge s.nextMosi (s.cpol ^^ s.leading) := by
  unfold State.samples State.leading at h
  unfold State.edgeStep State.leading State.nextMosi
  cases hc : s.cpha <;> cases hl : s.eng.edge % 2 == 0 <;> simp [hc, hl] at h ⊢
  split <;> rfl

/-- R191, R192: everything an EDGE does: it drives SCLK, samples one bit or drives MOSI, and may use a draw. -/
theorem State.edgeStep_eq (s : State) :
    ∃ shRx env, s.edgeStep =
      { s with
        eng := { s.eng with
                  edge := s.eng.edge + 1
                  sclk := s.cpol ^^ s.leading
                  mosi := if s.samples then s.eng.mosi else s.nextMosi
                  shRx := shRx }
        env := env } ∧
      sameInputs env s.env ∧
      ∀ i, i < 8 → shRx.getLsbD i =
        if s.samples = true ∧ i = 7 - s.eng.edge / 2 then s.miso (s.eng.edge / 2) else s.eng.shRx.getLsbD i := by
  cases hs : s.samples with
  | true =>
    obtain ⟨hsampled, hin⟩ := s.sampled_eq
    refine ⟨writeBit s.eng.shRx (7 - s.eng.edge / 2) (s.miso (s.eng.edge / 2)), s.sampled.env, ?_, hin, fun i hi => ?_⟩
    · rw [State.edgeStep_samples hs, State.sampleEdge, hsampled]
      rfl
    · simpa using getLsbD_writeBit s.eng.shRx (by omega) hi (s.miso (s.eng.edge / 2))
  | false => exact ⟨s.eng.shRx, s.env, State.edgeStep_drives hs, ⟨rfl, rfl⟩, fun i _ => by simp⟩

/-- Settles O20: LOAD by `load_cons`, EDGE by `edgeStep_eq`; the lines are those of the byte in flight. -/
theorem engineLoadAndEdgeDriveTheLines : Obligations.EngineLoadAndEdgeDriveTheLines := by
  intro s hstd hta7
  have hta : s.ta = true := (ta_eq s).trans hta7
  rw [← cpha_eq, ← cpol_eq]
  refine ⟨fun b q hidle hq hroom => ?_, fun hbusy he => ?_⟩
  · obtain ⟨m, env, hload, hslave, hsched, hmosi⟩ := State.load_cons hq
    have hstep := engineStep_load hstd (State.loadEnabled_of_room hta hidle hq hroom)
    rw [hload] at hstep
    exact ⟨_, env, hstep, ⟨hslave, hsched⟩, rfl, hmosi⟩
  · obtain ⟨shRx, env, hedge, hin, hbits⟩ := s.edgeStep_eq
    have hstep := engineStep_edge hstd hta hbusy he
    rw [hedge] at hstep
    refine ⟨_, env, s.miso (s.eng.edge / 2), hstep, hin, rfl, hbits, fun hl => ?_, fun c hc => ?_, ?_, ?_⟩
    · rw [State.miso, hl]
    · rw [State.miso, hc]
    · exact if_pos hbusy
    · exact if_pos hbusy

end Sys2Proof.Machine
end

/-! ## One byte, from LOAD to STORE (R190 to R197, R217) -/

section
namespace Sys2Proof.Machine

open Sys2Proof.Spec

variable {s t : State} {b x : Byte} {q : List Byte}

/-! ### The run of the byte's steps -/

/-- An enabled ENGINE step that goes on, and the steps after it. -/
theorem engineRun_succ_of_step {n : Nat} (hen : s.engineEnabled = true) (h : engineStep s = .next t) :
    engineRun (n + 1) s = engineRun n t := by
  rw [engineRun, if_pos hen, h, andThen_next]

@[simp] theorem engineRun_zero (s : State) : engineRun 0 s = .next s := rfl

/-- R191, R195: `n` edges of the byte in flight. -/
def State.edges (n : Nat) (s : State) : State := State.edgeStep^[n] s

/-- Edges write the shift register, the lines, the edge count and draws. -/
theorem State.edges_frame (n : Nat) (s : State) :
    ∃ shRx mosi sclk env, s.edges n =
      { s with
        eng := { s.eng with shRx := shRx, mosi := mosi, sclk := sclk, edge := s.eng.edge + n }
        env := env } ∧
      sameInputs env s.env := by
  induction n with
  | zero => exact ⟨s.eng.shRx, s.eng.mosi, s.eng.sclk, s.env, rfl, rfl, rfl⟩
  | succ n ih =>
    obtain ⟨shRx, mosi, sclk, env, h, hslave, hsched⟩ := ih
    obtain ⟨shRx', mosi', sclk', env', h', hslave', hsched'⟩ := (s.edges n).edgeStep_frame
    refine ⟨shRx', mosi', sclk', env', ?_, ?_⟩
    · rw [State.edges, Function.iterate_succ_apply', ← State.edges, h', h]
      rfl
    · rw [h] at hslave' hsched'
      exact ⟨hslave'.trans hslave, hsched'.trans hsched⟩

/-- R191: the edges that a byte in flight has left, and the steps after them. -/
theorem engineRun_edges {n k : Nat} (hstd : standardMode s) (hta : s.ta = true) (hbusy : s.eng.busy = true)
    (hn : s.eng.edge + n ≤ 16) : engineRun (n + k) s = engineRun k (s.edges n) := by
  induction n generalizing s with
  | zero => rw [Nat.zero_add]; rfl
  | succ n ih =>
    obtain ⟨shRx, mosi, sclk, env, hedge, -, -⟩ := s.edgeStep_frame
    have he : s.eng.edge < 16 := by omega
    have hen : s.engineEnabled = true := by simp [State.engineEnabled, State.edgeEnabled, hta, hbusy, he]
    have hrest : engineRun (n + k) s.edgeStep = engineRun k (s.edgeStep.edges n) := by
      rw [hedge]
      exact ih hstd hta hbusy (by simp only; omega)
    rw [Nat.succ_add, engineRun_succ_of_step hen (engineStep_edge hstd hta hbusy he), hrest]
    rfl

/-- R193: the STORE that ends the byte. -/
theorem engineRun_store (hstd : standardMode s) (hta : s.ta = true) (hbusy : s.eng.busy = true)
    (he : s.eng.edge = 16) : engineRun 1 s = .next s.store := by
  have hen : s.engineEnabled = true := by simp [State.engineEnabled, State.storeEnabled, hta, hbusy, he]
  rw [engineRun_succ_of_step hen (engineStep_store hstd hbusy he), engineRun_zero]

/-- R190, R191: the byte that LOAD takes, after its 16 edges. -/
theorem State.load_edges_frame (hq : s.eng.txq = b :: q) :
    ∃ shRx mosi sclk env, s.load.edges 16 =
      { s with
        eng := { s.eng with
                  txq := q, shTx := b, shRx := shRx, busy := true, edge := 16, sclk := sclk, mosi := mosi }
        env := env } ∧
      sameInputs env s.env := by
  obtain ⟨m, env, hload, hslave, hsched, -⟩ := State.load_cons hq
  obtain ⟨shRx, mosi, sclk, env', hedges, hslave', hsched'⟩ := s.load.edges_frame 16
  rw [hload] at hedges hslave' hsched' ⊢
  exact ⟨shRx, mosi, sclk, env', hedges, hslave'.trans hslave, hsched'.trans hsched⟩

/-- R195: a byte that LOAD takes runs through its 16 edges to STORE. -/
theorem engineByte_eq (hstd : standardMode s) (hta : s.ta = true) (hq : s.eng.txq = b :: q)
    (hl : s.loadEnabled = true) : engineByte s = .next (s.load.edges 16).store := by
  have hen : s.engineEnabled = true := by simp [State.engineEnabled, hl]
  have hedges : engineRun (16 + 1) s.load = engineRun 1 (s.load.edges 16) := by
    obtain ⟨m, env, hload, -⟩ := State.load_cons hq
    rw [hload]
    exact engineRun_edges hstd hta rfl (Nat.le_refl 16)
  have hstore : engineRun 1 (s.load.edges 16) = .next (s.load.edges 16).store := by
    obtain ⟨shRx, mosi, sclk, env, hflight, -⟩ := State.load_edges_frame hq
    rw [hflight]
    exact engineRun_store hstd hta rfl rfl
  rw [engineByte, engineRun_succ_of_step hen (engineStep_load hstd hl), hedges, hstore]

/-! ### What the SLAVE sends back -/

/-- R191: how many bits have been sampled after `e` edges. -/
def bitsAfter (cpha : Bool) (e : Nat) : Nat := if cpha then e / 2 else (e + 1) / 2

/-- R191: 16 edges sample the byte's 8 bits, and no more. -/
theorem bitsAfter_le (cpha : Bool) {e : Nat} (he : e ≤ 16) : bitsAfter cpha e ≤ 8 := by
  unfold bitsAfter
  split <;> omega

/-- R191: a bit sampled after one more edge is that edge's, or was there before. -/
theorem lt_bitsAfter_edge {j : Nat} (h : j < bitsAfter s.cpha (s.eng.edge + 1)) :
    (s.samples = true ∧ j = s.eng.edge / 2) ∨ j < bitsAfter s.cpha s.eng.edge := by
  unfold State.samples State.leading
  unfold bitsAfter at h ⊢
  cases hc : s.cpha with
  | true =>
    simp only [hc, if_true, bne_iff_ne, ne_eq, beq_iff_eq] at h ⊢
    omega
  | false =>
    simp only [hc, Bool.false_eq_true, if_false, bne_iff_ne, ne_eq, beq_eq_false_iff_ne, not_not] at h ⊢
    omega

/-- R191: of two edges in a row one samples. -/
theorem State.samples_edgeStep (s : State) : s.edgeStep.samples = !s.samples := by
  obtain ⟨shRx, mosi, sclk, env, hedge, -, -⟩ := s.edgeStep_frame
  have hflip : ((s.eng.edge + 1) % 2 == 0) = !(s.eng.edge % 2 == 0) := by
    rw [Bool.eq_iff_iff, Bool.not_eq_true', beq_iff_eq, beq_eq_false_iff_ne]
    omega
  rw [hedge]
  exact (congrArg (· != s.cpha) hflip).trans (Bool.not_bne _ _)

/-- R191: what an edge before the last drives is the bit that the next edge samples. -/
theorem State.nextMosi_eq (hs : s.samples = false) (he : s.eng.edge + 1 < 16) :
    s.nextMosi = s.eng.shTx.getLsbD (7 - (s.eng.edge + 1) / 2) := by
  unfold State.samples State.leading at hs
  unfold State.nextMosi
  cases hc : s.cpha with
  | true =>
    simp only [hc, bne_eq_false_iff_eq, beq_iff_eq] at hs
    rw [if_pos rfl, show (s.eng.edge + 1) / 2 = s.eng.edge / 2 by omega]
  | false =>
    simp only [hc, bne_eq_false_iff_eq, beq_eq_false_iff_ne] at hs
    rw [if_neg Bool.false_ne_true, if_pos (by omega), show (s.eng.edge + 1) / 2 = s.eng.edge / 2 + 1 by omega]

/-- R192: the SLAVE answers the byte in flight with the byte x: every bit sampled so far is x's. The loopback answers
with the byte sent, which MOSI shows where the next edge samples. -/
structure Echoes (x : Byte) (s : State) : Prop where
  bits : ∀ j, j < bitsAfter s.cpha s.eng.edge → s.eng.shRx.getLsbD (7 - j) = x.getLsbD (7 - j)
  answers : s.env.slave = .constant x ∨
    s.env.slave = .loopback ∧ s.eng.shTx = x ∧
      (s.samples = true → s.eng.edge < 16 → s.eng.mosi = x.getLsbD (7 - s.eng.edge / 2))

/-- R192: the bit that an edge samples. -/
theorem Echoes.miso (h : Echoes x s) (hs : s.samples = true) (he : s.eng.edge < 16) :
    s.miso (s.eng.edge / 2) = x.getLsbD (7 - s.eng.edge / 2) := by
  rcases h.answers with hc | ⟨hl, -, hmosi⟩
  · rw [State.miso, hc]
  · rw [State.miso, hl]
    exact hmosi hs he

/-- R190: LOAD begins the answer: x of the constant SLAVE, the byte sent of the loopback. -/
theorem Echoes.load (hq : s.eng.txq = b :: q)
    (h : s.env.slave = .constant x ∨ s.env.slave = .loopback ∧ b = x) : Echoes x s.load := by
  obtain ⟨m, env, hload, hslave, -, hmosi⟩ := State.load_cons hq
  rw [hload]
  refine ⟨fun j hj => ?_, h.imp hslave.trans fun ⟨hl, hb⟩ => ⟨hslave.trans hl, hb, fun hs _ => ?_⟩⟩
  · simp [bitsAfter] at hj
  · have hcpha : s.cpha = false := by simpa [State.samples, State.leading, State.cpha] using hs
    simpa [← hb] using (hmosi hcpha).1

/-- R191: an edge goes on with it. -/
theorem Echoes.edgeStep (h : Echoes x s) (he : s.eng.edge < 16) : Echoes x s.edgeStep := by
  obtain ⟨shRx, env, hedge, ⟨hslave, -⟩, hbits⟩ := s.edgeStep_eq
  have hflip := s.samples_edgeStep
  rw [hedge] at hflip ⊢
  constructor
  · intro j hj
    change j < bitsAfter s.cpha (s.eng.edge + 1) at hj
    have hj8 : j < 8 := Nat.lt_of_lt_of_le hj (bitsAfter_le s.cpha he)
    by_cases hthis : s.samples = true ∧ 7 - j = 7 - s.eng.edge / 2
    · rw [show 7 - j = 7 - s.eng.edge / 2 from hthis.2, hbits _ (by omega), if_pos ⟨hthis.1, rfl⟩]
      exact h.miso hthis.1 he
    · rw [hbits _ (by omega), if_neg hthis]
      exact h.bits j ((lt_bitsAfter_edge hj).resolve_left fun ⟨hs, hje⟩ => hthis ⟨hs, by rw [hje]⟩)
  · refine h.answers.imp hslave.trans fun ⟨hl, hb, hmosi⟩ => ⟨hslave.trans hl, hb, fun hs he' => ?_⟩
    have hdrives : s.samples = false := by simpa using hflip.symm.trans hs
    simp only [hdrives, Bool.false_eq_true, if_false]
    rw [State.nextMosi_eq hdrives he', hb]

/-- R191: so do the edges that are left. -/
theorem Echoes.edges {n : Nat} (h : Echoes x s) (hn : s.eng.edge + n ≤ 16) : Echoes x (s.edges n) := by
  induction n with
  | zero => exact h
  | succ n ih =>
    obtain ⟨shRx, mosi, sclk, env, hedges, -⟩ := s.edges_frame n
    rw [State.edges, Function.iterate_succ_apply', ← State.edges]
    exact (ih (by omega)).edgeStep (by rw [hedges]; simp only; omega)

/-- R191: after 16 edges the byte received is x. -/
theorem Echoes.received (h : Echoes x s) (he : s.eng.edge = 16) : s.eng.shRx = x := by
  apply BitVec.eq_of_getLsbD_eq
  intro i hi
  have hall : bitsAfter s.cpha s.eng.edge = 8 := by rw [he]; cases s.cpha <;> rfl
  have := h.bits (7 - i) (by omega)
  rwa [show 7 - (7 - i) = i by omega] at this

/-! ### The whole byte -/

/-- R190 to R197: one byte, from an idle shift register to STORE: the byte sent and the byte m received are recorded, m
goes to the RX FIFO where there is room, and DLEN is kept or reset. The constant SLAVE's m is its byte, the loopback's
the byte sent. -/
theorem engineByte_spec (hstd : standardMode s) (hta7 : s.bank.cs.getLsbD 7 = true) (hidle : s.eng.busy = false)
    (hq : s.eng.txq = b :: q) (hroom : s.cfg.rxFullPolicy = .drop ∨ s.eng.rxq.length < s.cfg.fifoDepth) :
    ∃ m mosi sclk dlen env, engineByte s =
      .next { s with
        bank := { s.bank with dlen := dlen }
        eng := { txq := q
                 rxq := if s.eng.rxq.length < s.cfg.fifoDepth then s.eng.rxq ++ [m] else s.eng.rxq
                 busy := false, shTx := b, shRx := m, edge := 0, sclk := sclk, mosi := mosi }
        book := recorded s.book [.byte (s.bank.cs.extractLsb' 0 2) (s.bank.cs.extractLsb' 2 2) b m]
        env := env } ∧
      (dlen = s.bank.dlen ∨ dlen = 0#16) ∧ sameInputs env s.env ∧
      (∀ c, s.env.slave = .constant c → m = c) ∧ (s.env.slave = .loopback → m = b) := by
  have hta : s.ta = true := (ta_eq s).trans hta7
  obtain ⟨m, mosi, sclk, env, hflight, hin⟩ := State.load_edges_frame hq
  have hreceived {x : Byte} (hx : s.env.slave = .constant x ∨ s.env.slave = .loopback ∧ b = x) : m = x := by
    have hloaded : s.load.eng.edge = 0 := by
      obtain ⟨_, _, hload, -⟩ := State.load_cons hq
      rw [hload]
    have hecho := (Echoes.load hq hx).edges (n := 16) (by rw [hloaded])
    rw [hflight] at hecho
    exact hecho.received rfl
  rw [engineByte_eq hstd hta hq (State.loadEnabled_of_room hta hidle hq hroom), hflight]
  exact ⟨m, mosi, sclk, _, _, rfl, (ite_eq_or_eq _ _ _).symm, hin, fun c hc => hreceived (.inl hc),
    fun hl => hreceived (.inr ⟨hl, rfl⟩)⟩

/-- Settles O22: `engineByte_spec` with room, where the loopback's byte is the byte sent. -/
theorem loopbackByteComesBack : Obligations.LoopbackByteComesBack := by
  intro s b q hstd hta hidle hloop hq hroom
  obtain ⟨m, mosi, sclk, dlen, env, hbyte, hdlen, hin, -, hm⟩ := engineByte_spec hstd hta hidle hq (.inr hroom)
  obtain rfl := hm hloop
  exact ⟨_, hbyte, rfl, if_pos hroom, rfl, rfl, rfl, rfl, hdlen, rfl, rfl, rfl, rfl, hin⟩

/-- Settles O23: `engineByte_spec` with room, and under the drop policy without; the stall policy does not LOAD. -/
theorem oneByteReceivedPerByteSent : Obligations.OneByteReceivedPerByteSent := by
  intro s b q hstd hta hidle hq
  refine ⟨fun hroom => ?_, State.engineEnabled_of_stall hidle, fun hfull hdrop => ?_⟩
  · obtain ⟨m, _, _, _, _, hbyte, -, -, hconst, -⟩ := engineByte_spec hstd hta hidle hq (.inr hroom)
    exact ⟨_, m, hbyte, rfl, if_pos hroom, rfl, rfl, hconst⟩
  · obtain ⟨m, _, _, _, _, hbyte, -, -, hconst, -⟩ := engineByte_spec hstd hta hidle hq (.inl hdrop)
    exact ⟨_, m, hbyte, rfl, if_neg (Nat.not_lt.mpr hfull), rfl, rfl, hconst⟩

end Sys2Proof.Machine
end

/-! ## The chip-select lines and the idle clock (R205, R207) -/

section
namespace Sys2Proof.Machine

variable {s : State} {n : Fin 4}

/-- R205: a line whose own polarity is CSPOL, or that has none, does not differ. -/
theorem State.polarityDiffers_of_agrees
    (h : n.val < 3 → s.bank.cs.getLsbD (21 + n.val) = s.bank.cs.getLsbD 6) : s.polarityDiffers n = false := by
  rw [State.polarityDiffers, Bool.and_eq_false_imp, decide_eq_true_iff, bne_eq_false_iff_eq, cspol_eq]
  exact h

/-- R205: a line that does not differ is inactive while TA = 0. -/
theorem State.csLine_inactive (hpol : s.polarityDiffers n = false) (hta : s.ta = false) : s.csLine n = !s.cspol := by
  simp [State.csLine, hpol, hta]

/-- R205: while TA = 1 and CS.CS is a line, a line that does not differ is active exactly when it is that one. -/
theorem State.csLine_active (hpol : s.polarityDiffers n = false) (hta : s.ta = true) (hchip : s.chip.toNat < 3) :
    s.csLine n = if n.val = s.chip.toNat then s.cspol else !s.cspol := by
  have hline : s.chip ≠ 3#2 := by
    intro h
    rw [h] at hchip
    exact absurd hchip (by decide)
  simp [State.csLine, hpol, hta, hline]

/-- Settles O25: the two levels of a line that does not differ, and SCLK's with no byte in flight. -/
theorem chipSelectLinesFollowCs : Obligations.ChipSelectLinesFollowCs := by
  intro s n
  refine ⟨fun hagrees => ?_, fun hidle => ?_⟩
  · have hpol := State.polarityDiffers_of_agrees hagrees
    rw [← ta_eq, ← cspol_eq]
    exact ⟨State.csLine_inactive hpol, State.csLine_active hpol⟩
  · rw [State.sclkLevel, hidle, ← cpol_eq]
    rfl

end Sys2Proof.Machine
end

/-! ## What lowers IRQ (R210, R211) -/

section
namespace Sys2Proof.Machine

open Sys2Proof.Spec

variable {sel : Prop} {s t : State} {w : Word}

/-! ### One transaction -/

/-- IRQ is a function of the parameters, CS and the ENGINE. -/
theorem State.irq_congr (hcfg : t.cfg = s.cfg) (hcs : t.bank.cs = s.bank.cs) (heng : t.eng = s.eng) :
    t.irq = s.irq := by
  simp only [State.irq, State.intd, State.intr, State.done, State.rxr, State.ta, hcfg, hcs, heng]

/-- R33, R36: with TA = 0 neither flag of IRQ is set. -/
theorem State.irq_of_inactive (h : s.ta = false) : s.irq = false := by
  simp [State.irq, State.done, State.rxr, h]

/-- R210: with both sources disabled IRQ is 0. -/
theorem State.irq_of_disabled (hd : s.intd = false) (hr : s.intr = false) : s.irq = false := by
  simp [State.irq, hd, hr]

/-- R33, R210: with DONE = 0 IRQ is RXR's alone. -/
theorem State.irq_of_not_done (h : s.done = false) : s.irq = (s.bank.cs.getLsbD 10 && s.rxr) := by
  simp [State.irq, h, intr_eq]

/-- R36, R210: with RXR = 0 IRQ is DONE's alone. -/
theorem State.irq_of_not_rxr (h : s.rxr = false) : s.irq = (s.bank.cs.getLsbD 9 && s.done) := by
  simp [State.irq, h, intd_eq]

/-- R36: below the threshold RXR is 0. -/
theorem State.rxr_of_below (h : s.eng.rxq.length < s.cfg.rxrThreshold) : s.rxr = false := by
  simp [State.rxr, Nat.not_le.mpr h]

/-- A stored bit of CS after a CS write that completes. -/
theorem State.writeCs_stored_bit (h : s.writeCs w = .next t) {k : Nat} (hk : csStored.getLsbD k = true) :
    t.bank.cs.getLsbD k = w.getLsbD k := by
  rw [(State.writeCs_next h).1, State.writeDone_bank, BitVec.getLsbD_and, hk, Bool.and_true]

/-- R210: IRQ stays 1 where the enabled sources and the flags stay. -/
theorem State.irq_of_kept (hirq : s.irq = true) (hd : s.intd = true → t.intd = true)
    (hr : s.intr = true → t.intr = true) (hdone : s.done = true → t.done = true) (hrxr : s.rxr = true → t.rxr = true) :
    t.irq = true := by
  simp only [State.irq, Bool.or_eq_true, Bool.and_eq_true] at hirq ⊢
  exact hirq.imp (And.imp hd hdone) (And.imp hr hrxr)

/-! ### One act of the HOST -/

/-- R211: what a transaction that lowers IRQ is, in the history. -/
def LowersIrq (s t : State) (e : Event) : Prop :=
  (∃ w, e = .bus .fifoWrite 0x04#8 w) ∨
  (∃ w, e = csWriteEv w ∧ (w.getLsbD 7 = false ∨ (s.bank.cs.getLsbD 9 = true ∧ w.getLsbD 9 = false) ∨
    (s.bank.cs.getLsbD 10 = true ∧ w.getLsbD 10 = false) ∨ w.getLsbD 5 = true)) ∨
  (∃ v, e = .bus .fifoRead 0x04#8 v ∧ t.eng.rxq.length < s.cfg.rxrThreshold)

/-- R33: a FIFO write that completes leaves a byte to send. -/
theorem State.writeFifo_not_done (h : s.writeFifo w = .next t) : t.done = false := by
  rw [(State.writeFifo_next h).1]
  simp [State.done]

/-- R36: a FIFO read that leaves fewer bytes than the threshold makes RXR 0. -/
theorem State.readFifo_not_rxr (h : s.readFifo = .next t) (hbelow : t.eng.rxq.length < s.cfg.rxrThreshold) :
    t.rxr = false := by
  have hcfg : t.cfg = s.cfg := by rw [(State.readFifo_next h).1]; rfl
  exact State.rxr_of_below (hcfg ▸ hbelow)

/-- R211, R142: a CS write that keeps TA, the enabled sources and the RX FIFO keeps IRQ. -/
theorem State.writeCs_keeps_irq (h : s.writeCs w = .next t) (hirq : s.irq = true) (hta : w.getLsbD 7 = true)
    (hd : s.bank.cs.getLsbD 9 = true → w.getLsbD 9 = true) (hr : s.bank.cs.getLsbD 10 = true → w.getLsbD 10 = true)
    (hclear : w.getLsbD 5 = false) : t.irq = true := by
  have hbit {k : Nat} (hk : csStored.getLsbD k = true) := State.writeCs_stored_bit h hk
  have hta' : t.ta = true := (ta_eq t).trans ((hbit (by decide)).trans hta)
  have hrxq : clearedBy w CLEAR_RX s.eng.rxq = s.eng.rxq := by
    rw [clearedBy, has_CLEAR_RX, hclear, if_neg Bool.false_ne_true]
  refine State.irq_of_kept hirq (fun hs => ?_) (fun hs => ?_) (fun hs => ?_) (fun hs => ?_)
  · rw [intd_eq] at hs ⊢
    rw [hbit (by decide), hd hs]
  · rw [intr_eq] at hs ⊢
    rw [hbit (by decide), hr hs]
  · simp only [State.done, Bool.and_eq_true, List.isEmpty_iff] at hs ⊢
    obtain ⟨⟨-, hempty⟩, hidle⟩ := hs
    rw [(State.writeCs_next h).1] at hta' ⊢
    exact ⟨⟨hta', by simp [clearedBy, hempty]⟩, hidle⟩
  · simp only [State.rxr, Bool.and_eq_true, decide_eq_true_eq] at hs ⊢
    rw [(State.writeCs_next h).1] at hta' ⊢
    exact ⟨hta', hs.2.trans_eq (congrArg List.length hrxq.symm)⟩

/-- R211: a FIFO read that leaves the threshold keeps IRQ. -/
theorem State.readFifo_keeps_irq (h : s.readFifo = .next t) (hirq : s.irq = true)
    (hleft : s.cfg.rxrThreshold ≤ t.eng.rxq.length) : t.irq = true := by
  obtain ⟨ht, -, hta, -, -⟩ := State.readFifo_next h
  rw [ht] at hleft ⊢
  refine State.irq_of_kept hirq id id id fun _ => ?_
  rw [State.rxr, Bool.and_eq_true, decide_eq_true_eq]
  exact ⟨hta, hleft⟩

/-- R211: an act after which IRQ is 0 where it was 1 is one of the three transactions. -/
theorem Acts.lowersIrq (h : Acts sel s t) (hs : s.irq = true) (ht : t.irq = false) :
    ∃ e, t.book.events = s.book.events ++ [e] ∧ LowersIrq s t e := by
  have hkept (hcfg : t.cfg = s.cfg) (hcs : t.bank.cs = s.bank.cs) (heng : t.eng = s.eng) : False := by
    rw [State.irq_congr hcfg hcs heng, hs] at ht
    cases ht
  cases h with
  | quiet h =>
    simp only [State.held, Prod.mk.injEq] at h
    obtain ⟨hcfg, hcs, heng, -⟩ := h
    exact (hkept hcfg hcs heng).elim
  | memory | device | mask | attach | detach => exact (hkept rfl rfl rfl).elim
  | @csWrite w _ h =>
    refine ⟨csWriteEv w, ?_, .inr (.inl ⟨w, rfl, ?_⟩)⟩
    · rw [(State.writeCs_next h).1]
      rfl
    · by_contra hnone
      simp only [not_or, not_and, Bool.not_eq_false, Bool.not_eq_true] at hnone
      obtain ⟨hta, hd, hr, hclear⟩ := hnone
      rw [State.writeCs_keeps_irq h hs hta hd hr hclear] at ht
      cases ht
  | @fifoWrite w _ h =>
    rw [(State.writeFifo_next h).1]
    exact ⟨_, rfl, .inl ⟨w, rfl⟩⟩
  | fifoRead h =>
    refine ⟨.bus .fifoRead 0x04#8 s.fifoRdata, ?_, .inr (.inr ⟨_, rfl, ?_⟩)⟩
    · rw [(State.readFifo_next h).1]
      rfl
    · by_contra hleft
      rw [State.readFifo_keeps_irq h hs (Nat.not_lt.mp hleft)] at ht
      cases ht

/-! ### A step of each agent -/

/-- Whatever becomes of the positions, the block and the history are as an act left them. -/
theorem HostMove.block_of_act (h : HostMove sel s t) :
    ∃ u, Acts sel s u ∧ t.cfg = u.cfg ∧ t.bank = u.bank ∧ t.eng = u.eng ∧ t.book = u.book := by
  have hdeliver (u : State) (r : OpResult) : (u.deliver r).cfg = u.cfg ∧ (u.deliver r).bank = u.bank ∧
      (u.deliver r).eng = u.eng ∧ (u.deliver r).book = u.book := by
    obtain ⟨hcfg, hbank, heng, -, hbook, -⟩ := u.deliver_keeps r
    exact ⟨hcfg, hbank, heng, hbook⟩
  cases h with
  | act ha => exact ⟨t, ha, rfl, rfl, rfl, rfl⟩
  | @move u _ _ _ ha => exact ⟨u, ha, rfl, rfl, rfl, rfl⟩
  | @push u _ ha => exact ⟨u, ha, rfl, rfl, rfl, rfl⟩
  | @deliver u r ha => exact ⟨u, ha, hdeliver u r⟩
  | @finish u r ha => exact ⟨u, ha, hdeliver u.pop r⟩

/-- R211: a HOST move after which IRQ is 0 where it was 1 makes one of the three transactions. -/
theorem HostMove.lowersIrq (h : HostMove sel s t) (hs : s.irq = true) (ht : t.irq = false) :
    ∃ e, t.book.events = s.book.events ++ [e] ∧ LowersIrq s t e := by
  obtain ⟨u, ha, hcfg, hbank, heng, hbook⟩ := h.block_of_act
  rw [State.irq_congr hcfg (congrArg RegisterBank.cs hbank) heng] at ht
  unfold LowersIrq
  rw [hbook, heng]
  exact ha.lowersIrq hs ht

/-- An instruction that the program issues and that goes on: its meaning, and the end of the line. -/
theorem issue_next {i : Instr} {dst : Option Nat} (h : issue i dst s = .next t) :
    ∃ u, exec i (s.issued dst) = .next u ∧ t = u.lineDone i := by
  obtain ⟨u, hu, ht⟩ := andThen_eq_next.mp h
  cases ht
  exact ⟨u, hu, rfl⟩

/-- Bytes that the program issues and that go on are an instruction. -/
theorem runBytes_next {bytes : List Byte} {dst : Option Nat} (h : runBytes bytes dst s = .next t) :
    ∃ i u, exec i (s.issued dst) = .next u ∧ t = u.lineDone i := by
  unfold runBytes at h
  split at h
  · exact ⟨_, issue_next h⟩
  · next e _ => cases e <;> cases h

/-- R120: a line of the program that goes on issues an instruction, or changes the program's position and the
interrupt mask alone. -/
theorem runLine_next {l : HostLine} (h : runLine l s = .next t) :
    (∃ dst i u, exec i (s.issued dst) = .next u ∧ t = u.lineDone i) ∨
    (∃ host ie, t = { s with host := host, seq.ie := ie }) := by
  cases l with
  | command bytes dst => exact .inl ⟨dst, runBytes_next h⟩
  | call i dst => exact .inl ⟨dst, i, issue_next h⟩
  | write w e =>
    simp only [runLine] at h
    split at h
    · exact .inl ⟨none, runBytes_next h⟩
    · cases h
  | cli | sti | goto => cases h; exact .inr ⟨_, _, rfl⟩
  | ifGoto c n =>
    simp only [runLine] at h
    split at h
    · cases h; exact .inr ⟨_, _, rfl⟩
    · cases h

/-- The end of a line leaves everything but the program's variables. -/
theorem State.lineDone_eq (s : State) (i : Instr) : ∃ host, s.lineDone i = { s with host := host } := by
  unfold State.lineDone
  split <;> exact ⟨_, rfl⟩

/-- R211: so does a HOST step, of a running operation, of the handler that starts, or of a line of the program. -/
theorem hostStep_lowersIrq (h : hostStep s = .next t) (hs : s.irq = true) (ht : t.irq = false) :
    ∃ e, t.book.events = s.book.events ++ [e] ∧ LowersIrq s t e := by
  unfold hostStep at h
  split at h
  · next hstack => exact (advance_move (sel := True) hstack (fun _ _ _ _ => trivial) h).lowersIrq hs ht
  · exact (execIrqHandler_move (sel := True) h).lowersIrq hs ht
  · next hstack hctx =>
    split at h
    · rcases runLine_next h with ⟨dst, i, u, hexec, rfl⟩ | ⟨host, ie, rfl⟩
      · obtain ⟨host, hdone⟩ := u.lineDone_eq i
        rw [hdone] at ht ⊢
        exact (exec_move (sel := True) (s := s.issued dst) hctx hstack (fun _ _ _ => trivial) hexec).lowersIrq hs ht
      · exact absurd (hs.symm.trans ht) (by decide)
    · cases h

/-- R193, R196: STORE takes no byte from the RX FIFO. -/
theorem State.store_rxq_length_le (s : State) : s.eng.rxq.length ≤ s.store.eng.rxq.length := by
  simp only [State.store]
  split
  · simp
  · exact Nat.le_refl _

/-- R211: no ENGINE step lowers IRQ: LOAD and EDGE find DONE 0 and leave the RX FIFO, and STORE only adds to it. -/
theorem engineStep_keeps_irq (h : engineStep s = .next t) (hs : s.irq = true) : t.irq = true := by
  obtain ⟨-, ⟨hl, rfl⟩ | ⟨-, he, rfl⟩ | ⟨-, -, rfl⟩⟩ := engineStep_next h
  · obtain ⟨b, q, m, env, hq, hload⟩ := State.load_frame hl
    rw [hload]
    refine State.irq_of_kept hs id id (fun hdone => ?_) id
    simp [State.done, hq] at hdone
  · obtain ⟨shRx, m, k, env, hedge, -, -⟩ := s.edgeStep_frame
    rw [hedge]
    exact State.irq_of_kept hs id id id id
  · refine State.irq_of_kept hs id id (fun hdone => ?_) (fun hrxr => ?_)
    · simp only [State.done, Bool.and_eq_true] at hdone ⊢
      exact ⟨hdone.1, rfl⟩
    · simp only [State.rxr, Bool.and_eq_true, decide_eq_true_eq] at hrxr ⊢
      exact ⟨hrxr.1, hrxr.2.trans s.store_rxq_length_le⟩

/-- R211: a step of the machine after which IRQ is 0 where it was 1 makes one of the three transactions. -/
theorem step_lowersIrq (h : step s = .next t) (hs : s.irq = true) (ht : t.irq = false) :
    ∃ e, t.book.events = s.book.events ++ [e] ∧ LowersIrq s t e := by
  obtain ⟨-, a, u, v, hchoose, hagent, rfl⟩ := step_next h
  obtain ⟨hu, -, -⟩ := State.chooseAgent_frame hchoose
  generalize u.env = env at hu
  subst hu
  cases a with
  | host => exact hostStep_lowersIrq (s := { s with env := env }) (t := v) hagent hs ht
  | engine =>
    have hkept := engineStep_keeps_irq (s := { s with env := env }) hagent hs
    exact absurd (hkept.symm.trans ht) (by decide)
  | delivery =>
    obtain ⟨-, rfl⟩ := deliveryStep_next hagent
    exact absurd (hs.symm.trans ht) (by decide)

/-- Settles O19: each transaction by its own equation, and the last clause by `step_lowersIrq`. -/
theorem irqFallsOnlyByStateChange : Obligations.IrqFallsOnlyByStateChange := by
  refine ⟨fun s t h => ?_, fun s t w h => ?_, fun s t w h hta => ?_, fun s t w h hd hr => ?_, fun s t h hbelow => ?_,
    fun s t => step_lowersIrq⟩
  · cases h
    rfl
  · have hdone := State.writeFifo_not_done h
    obtain ⟨rfl, -⟩ := State.writeFifo_next h
    exact ⟨hdone, rfl, State.irq_of_not_done hdone⟩
  · exact State.irq_of_inactive ((ta_eq t).trans ((State.writeCs_stored_bit h (by decide)).trans hta))
  · exact State.irq_of_disabled ((intd_eq t).trans ((State.writeCs_stored_bit h (by decide)).trans hd))
      ((intr_eq t).trans ((State.writeCs_stored_bit h (by decide)).trans hr))
  · have hrxr := State.readFifo_not_rxr h hbelow
    obtain ⟨rfl, -⟩ := State.readFifo_next h
    exact ⟨hrxr, State.irq_of_not_rxr hrxr⟩

end Sys2Proof.Machine
end

/-! ## Infinite runs (R218, R325, R341, R406) -/

section
namespace Sys2Proof.Machine

variable {s t : State} {r : Nat → State} {a : Agent} {n : Nat}

/-! ### One step that passes over an enabled agent -/

/-- The agent that moves is the one that was chosen. -/
theorem State.mover_of_chooseAgent {s1 : State} (h : s.chooseAgent = some (a, s1)) : s.mover = some a := by
  rw [State.mover, h]
  rfl

/-- R7, R218: a step that an enabled agent does not take had a choice: it uses up a fixed choice, or the agent that
moves is `freeAgent`'s. -/
theorem step_passing_over (h : step s = .next t) (hen : a ∈ s.enabledAgents) (hpass : s.mover ≠ some a) :
    t.env.sched = s.env.sched.tail ∧
    (s.env.sched = [] → ∃ x y rest, s.mover = some (s.freeAgent x y rest)) := by
  obtain ⟨-, c, u, v, hchoose, hagent, rfl⟩ := step_next h
  have hmover := State.mover_of_chooseAgent hchoose
  obtain ⟨hsched, -⟩ := agentStep_choices hagent
  rw [State.tick_sched, hsched]
  obtain ⟨-, ⟨halone, -⟩ | ⟨x, y, rest, -, ⟨d, ds, hs, rfl⟩ | ⟨hs, hfree, rfl⟩⟩⟩ := State.chooseAgent_some hchoose
  · rw [halone, List.mem_singleton] at hen
    exact absurd (hen ▸ hmover) hpass
  · exact ⟨by rw [hs, List.tail_cons], fun hnil => by rw [hs] at hnil; cases hnil⟩
  · exact ⟨by rw [hs]; exact hs, fun _ => ⟨x, y, rest, hfree ▸ hmover⟩⟩

/-- Every step advances the counter of free values. -/
theorem step_fresh_lt (h : step s = .next t) : s.env.fresh < t.env.fresh := by
  obtain ⟨-, c, u, v, hchoose, hagent, rfl⟩ := step_next h
  obtain ⟨-, -, -, hle⟩ := agentStep_choices hagent
  have hu : s.env.fresh ≤ u.env.fresh := by
    obtain ⟨-, ⟨-, rfl⟩ | ⟨x, y, rest, -, ⟨d, ds, -, rfl⟩ | ⟨-, -, rfl⟩⟩⟩ := State.chooseAgent_some hchoose
    · exact Nat.le_refl _
    · exact Nat.le_refl _
    · exact Nat.le_succ _
  exact Nat.lt_succ_of_le (hu.trans hle)

/-- R218, R341: choosing an agent records since when the ENGINE's step and the entry wait. -/
theorem State.chooseAgent_since {s1 : State} (h : s.chooseAgent = some (a, s1)) :
    s1.env.engineSince = (s.waited a).env.engineSince ∧ s1.env.entrySince = (s.waited a).env.entrySince := by
  obtain ⟨-, ⟨-, rfl⟩ | ⟨_, _, _, -, ⟨_, _, -, rfl⟩ | ⟨-, -, rfl⟩⟩⟩ := State.chooseAgent_some h <;> exact ⟨rfl, rfl⟩

/-- R218: an ENGINE step that is passed over goes on waiting. -/
theorem step_engineSince (h : step s = .next t) (hen : s.engineEnabled = true) (hpass : s.mover ≠ some .engine) :
    t.env.engineSince = s.env.engineSince := by
  obtain ⟨-, c, u, v, hchoose, hagent, rfl⟩ := step_next h
  obtain ⟨-, hkept, -⟩ := agentStep_choices hagent
  have hc : c ≠ .engine := fun hc => hpass (hc ▸ State.mover_of_chooseAgent hchoose)
  rw [State.tick_engineSince, hkept, (State.chooseAgent_since hchoose).1]
  exact if_pos (by simp [hen, hc])

/-- R341: an entry that is passed over goes on waiting. -/
theorem step_entrySince (h : step s = .next t) (hen : s.entryEnabled = true) (hpass : s.mover ≠ some .delivery) :
    t.env.entrySince = s.env.entrySince := by
  obtain ⟨-, c, u, v, hchoose, hagent, rfl⟩ := step_next h
  obtain ⟨-, -, hkept, -⟩ := agentStep_choices hagent
  have hc : c ≠ .delivery := fun hc => hpass (hc ▸ State.mover_of_chooseAgent hchoose)
  rw [State.tick_entrySince, hkept, (State.chooseAgent_since hchoose).2]
  exact if_pos (by simp [hen, hc])

/-- R341: an entry leaves thread context, so no entry is due after it. -/
theorem step_entry_not_due (h : step s = .next t) (hentry : s.mover = some .delivery) : t.entryDue = false := by
  obtain ⟨-, c, u, v, hchoose, hagent, rfl⟩ := step_next h
  obtain rfl : c = .delivery := Option.some.inj ((State.mover_of_chooseAgent hchoose).symm.trans hentry)
  obtain ⟨-, rfl⟩ := deliveryStep_next hagent
  simp [State.entryDue, State.entryEnabled, State.deliveryEnabled]

/-! ### An agent that stays enabled and never moves -/

/-- From `n` on the agent `a` is enabled at every state of the run, and never moves. -/
def PassedOver (r : Nat → State) (a : Agent) (n : Nat) : Prop :=
  ∀ m, n ≤ m → a ∈ (r m).enabledAgents ∧ (r m).mover ≠ some a

/-- The fixed choices are used up one a step. -/
theorem PassedOver.sched (h : PassedOver r a n) (hr : IsRun r) (k : Nat) :
    (r (n + k)).env.sched = (r n).env.sched.drop k := by
  induction k with
  | zero => rfl
  | succ k ih =>
    obtain ⟨hen, hpass⟩ := h (n + k) (Nat.le_add_right n k)
    rw [← Nat.add_assoc, (step_passing_over (hr (n + k)) hen hpass).1, ih, List.tail_drop]

/-- Every step of a run advances the counter. -/
theorem IsRun.le_fresh (hr : IsRun r) (m : Nat) : m ≤ (r m).env.fresh := by
  induction m with
  | zero => exact Nat.zero_le _
  | succ m ih => exact Nat.succ_le_of_lt (Nat.lt_of_le_of_lt ih (step_fresh_lt (hr m)))

/-- The agent that moves is `freeAgent`'s, and the counter is beyond any bound, from some state of the run on. -/
theorem PassedOver.freeAgent (h : PassedOver r a n) (hr : IsRun r) (bound : Nat) :
    ∃ N, n ≤ N ∧ ∀ m, N ≤ m →
      bound ≤ (r m).env.fresh ∧ ∃ x y rest, (r m).mover = some ((r m).freeAgent x y rest) := by
  refine ⟨n + (r n).env.sched.length + bound, by omega, fun m hm => ⟨?_, ?_⟩⟩
  · exact (show bound ≤ m by omega).trans (hr.le_fresh m)
  · obtain ⟨hen, hpass⟩ := h m (by omega)
    obtain ⟨k, rfl⟩ := Nat.exists_eq_add_of_le (show n ≤ m by omega)
    refine (step_passing_over (hr (n + k)) hen hpass).2 ?_
    rw [h.sched hr k, List.drop_eq_nil_of_le (by omega)]

/-! ### Weak fairness -/

/-- What every step of a run keeps from `n` on is what it was at `n`. -/
theorem eq_of_kept (f : State → Nat) (h : ∀ m, n ≤ m → f (r (m + 1)) = f (r m)) :
    ∀ m, n ≤ m → f (r m) = f (r n) := by
  intro m hm
  induction m, hm using Nat.le_induction with
  | base => rfl
  | succ m hm ih => rw [h m hm, ih]

/-- R341: an entry that stays enabled is taken: once it is due, `freeAgent` chooses it. -/
theorem IsRun.entry_taken (hr : IsRun r) : EventuallyTaken r State.entryEnabled .delivery := by
  intro n hen
  by_contra hnever
  simp only [not_exists, not_and] at hnever
  have hpassed : PassedOver r .delivery n := fun m hm => by
    have henabled := hen m hm
    simp only [State.entryEnabled, Bool.and_eq_true] at henabled
    exact ⟨State.mem_enabledAgents.mpr (.inr (.inr ⟨rfl, henabled.1⟩)), hnever m hm⟩
  have hsince := eq_of_kept (·.env.entrySince) fun m hm => step_entrySince (hr m) (hen m hm) (hnever m hm)
  obtain ⟨N, hN, hlate⟩ := hpassed.freeAgent hr ((r n).env.entrySince + Config.entryPatience (r n).env.entrySince)
  obtain ⟨hfresh, x, y, rest, hmover⟩ := hlate N (Nat.le_refl N)
  have hdue : (r N).entryDue = true := by
    rw [State.entryDue, hen N hN, hsince N hN, Bool.true_and, decide_eq_true_iff]
    exact hfresh
  rw [State.freeAgent, if_pos hdue] at hmover
  exact hnever N hN hmover

/-- R218: an ENGINE step that stays enabled is taken: once it is due, `freeAgent` chooses it, or an entry that is due
too and after which no entry is. -/
theorem IsRun.engine_taken (hr : IsRun r) : EventuallyTaken r State.engineEnabled .engine := by
  intro n hen
  by_contra hnever
  simp only [not_exists, not_and] at hnever
  have hpassed : PassedOver r .engine n := fun m hm =>
    ⟨State.mem_enabledAgents.mpr (.inr (.inl ⟨rfl, hen m hm⟩)), hnever m hm⟩
  have hsince := eq_of_kept (·.env.engineSince) fun m hm => step_engineSince (hr m) (hen m hm) (hnever m hm)
  obtain ⟨N, hN, hlate⟩ := hpassed.freeAgent hr ((r n).env.engineSince + Config.enginePatience (r n).env.engineSince)
  have hentry (m : Nat) (hm : N ≤ m) : (r m).entryDue = true ∧ (r m).mover = some .delivery := by
    obtain ⟨hfresh, x, y, rest, hmover⟩ := hlate m hm
    have hdue : (r m).engineDue = true := by
      rw [State.engineDue, hen m (hN.trans hm), hsince m (hN.trans hm), Bool.true_and, decide_eq_true_iff]
      exact hfresh
    cases hd : (r m).entryDue with
    | true => exact ⟨rfl, by rw [hmover, State.freeAgent, if_pos hd]⟩
    | false =>
      rw [State.freeAgent, hd, if_neg Bool.false_ne_true, if_pos hdue] at hmover
      exact absurd hmover (hnever m (hN.trans hm))
  have hnext := (hentry (N + 1) (Nat.le_succ N)).1
  rw [step_entry_not_due (hr N) (hentry N (Nat.le_refl N)).2] at hnext
  cases hnext

/-- R218, R341: every infinite run is weakly fair. -/
theorem IsRun.weaklyFair (hr : IsRun r) : WeaklyFair r := ⟨hr.engine_taken, hr.entry_taken⟩

/-! ### A machine that never stops stepping -/

/-- Of any machine behind the host's interface: the last of k + 1 steps is a step from where k steps lead. -/
theorem core_run_succ_of_next {M : Host.Core} {k : Nat} {s t : M.State} (h : M.run k s = .next t) :
    M.run (k + 1) s = M.step t := by
  induction k generalizing s with
  | zero =>
    cases h
    rw [Host.Core.run]
    cases M.step t <;> rfl
  | succ k ih =>
    cases hs : M.step s with
    | next u =>
      rw [Host.Core.run, hs] at h ⊢
      exact ih h
    | fault r | refused r =>
      rw [Host.Core.run, hs] at h
      cases h

/-- R325: where no number of steps ends the run, the states they lead to are an infinite run. -/
theorem exists_isRun_of_steps (h : ∀ k, ∃ t, Host.Core.run Sys2Proof.core k s = .next t) :
    ∃ r, r 0 = s ∧ IsRun r := by
  choose r hr using h
  refine ⟨r, ?_, fun n => ?_⟩
  · have h0 := hr 0
    cases h0
    rfl
  · exact (core_run_succ_of_next (hr n)).symm.trans (hr (n + 1))

/-- Settles O57: every infinite run is weakly fair, and a machine that never stops stepping has one. -/
theorem everyInfiniteRunIsWeaklyFair : Obligations.EveryInfiniteRunIsWeaklyFair := by
  refine ⟨fun r hr => hr.weaklyFair, fun s h => ?_⟩
  obtain ⟨r, h0, hr⟩ := exists_isRun_of_steps h
  exact ⟨r, h0, hr, hr.weaklyFair⟩

end Sys2Proof.Machine
end

/-! ## Words that show CS, and what their writes store (R86, R140 to R145) -/

section
namespace Sys2Proof.Machine

open Sys2Proof.Spec

variable {s : State} {w x m : Word}

/-- R86: a word whose stored part is x and whose CLEAR bits are 0: writing it to CS stores x and empties no FIFO. -/
structure Shows (w x : Word) : Prop where
  stored : w &&& csStored = x
  keepsTx : w.getLsbD 4 = false
  keepsRx : w.getLsbD 5 = false

/-- R140: a CS read shows the stored CS. -/
theorem csRdata_shows (h : csClean s) : Shows s.csRdata s.bank.cs := by
  have hcs := storedOnly_of_csClean h
  exact ⟨(csRdata_and_stored s).trans (and_mask_of_clean hcs), (csRdata_clear hcs).1, (csRdata_clear hcs).2⟩

/-- R86: masking bits out of the word masks them out of what it stores. -/
theorem Shows.and (h : Shows w x) (m : Word) : Shows (w &&& m) (x &&& m) where
  stored := by rw [BitVec.and_assoc, BitVec.and_comm m, ← BitVec.and_assoc, h.stored]
  keepsTx := by rw [BitVec.getLsbD_and, h.keepsTx, Bool.false_and]
  keepsRx := by rw [BitVec.getLsbD_and, h.keepsRx, Bool.false_and]

/-- R86: so does OR-ing stored bits in. -/
theorem Shows.or (h : Shows w x) (hm : m &&& ~~~csStored = 0#32) : Shows (w ||| m) (x ||| m) where
  stored := by rw [or_and_distrib, h.stored, and_mask_of_clean hm]
  keepsTx := by rw [BitVec.getLsbD_or, h.keepsTx, getLsbD_of_clean hm (by decide), Bool.false_or]
  keepsRx := by rw [BitVec.getLsbD_or, h.keepsRx, getLsbD_of_clean hm (by decide), Bool.false_or]

/-- What such a word shows holds stored fields only. -/
theorem Shows.clean (h : Shows w x) : x &&& ~~~csStored = 0#32 := h.stored ▸ clean_of_and_mask w csStored

/-- A state whose CS is such a word's stored part holds stored fields only. -/
theorem Shows.csClean (h : Shows w s.bank.cs) : csClean s := by
  rw [Spec.csClean, rwBits, ← csStored_eq]
  exact h.clean

/-- R24: a stored bit of the word is the bit it shows. -/
theorem Shows.stored_bit (h : Shows w x) {k : Nat} (hk : csStored.getLsbD k = true) : w.getLsbD k = x.getLsbD k := by
  rw [← h.stored, BitVec.getLsbD_and, hk, Bool.and_true]

/-- R39: the configuration fields of the word are those it shows. -/
theorem Shows.config (h : Shows w x) : w &&& csConfig = x &&& csConfig := by
  rw [← h.stored, BitVec.and_assoc, show csStored &&& csConfig = csConfig from by decide]

/-- R143, R144: writing a word that shows x meets neither fault condition. -/
structure Storable (s : State) (x : Word) : Prop where
  noConfigChange : s.bank.cs.getLsbD 7 = true → x.getLsbD 7 = true → x &&& csConfig = s.bank.cs &&& csConfig
  noMidByteClear : s.bank.cs.getLsbD 7 = true → s.eng.busy = true → x.getLsbD 7 = true

/-- With TA = 0, or nothing to change, neither condition is met. -/
theorem Storable.of_quiet (h : s.bank.cs.getLsbD 7 = false ∨ x = s.bank.cs) : Storable s x where
  noConfigChange hta _ := by
    rcases h with hoff | rfl
    · rw [hoff] at hta; cases hta
    · rfl
  noMidByteClear hta _ := by
    rcases h with hoff | rfl
    · rw [hoff] at hta; cases hta
    · exact hta

/-- R86: OR-ing in bits that are no configuration field meets neither condition. -/
theorem Storable.or (s : State) (hm : m &&& cfgBits = 0#32) : Storable s (s.bank.cs ||| m) where
  noConfigChange hta _ := config_or_of_allowed (.inr hm) hta
  noMidByteClear hta _ := by rw [BitVec.getLsbD_or, hta, Bool.true_or]

/-- R144: clearing TA meets neither condition with no byte in flight. -/
theorem Storable.clearTa (hmid : ¬ midByte s) : Storable s (s.bank.cs &&& ~~~0x80#32) where
  noConfigChange _ hta := by
    rw [BitVec.getLsbD_and, show (~~~0x80#32 : Word).getLsbD 7 = false from by decide, Bool.and_false] at hta
    cases hta
  noMidByteClear hta hbusy := absurd ⟨hta, hbusy⟩ hmid

/-- R141: s after a CS write of w that stores x and empties no FIFO. -/
def State.wroteCs (s : State) (x w : Word) : State :=
  { s with bank.cs := x, book := recorded s.book [csWriteEv w] }

/-- R142: s after a CS write of w that empties both FIFOs and stores what was there. -/
def State.clearedFifos (s : State) (w : Word) : State :=
  { s with eng.txq := [], eng.rxq := [], book := recorded s.book [csWriteEv w] }

/-- R141: the write of a word that shows x. -/
theorem Shows.writeCs (h : Shows w x) (hok : Storable s x) : s.writeCs w = .next (s.wroteCs x w) := by
  rw [State.writeCs_stores h.stored hok.noConfigChange hok.noMidByteClear, h.keepsTx, h.keepsRx]
  rfl

/-- R142: the write of a word that shows the stored CS, with both CLEAR bits. -/
theorem Shows.writeCs_clears (h : Shows w s.bank.cs) :
    s.writeCs (withClears w) = .next (s.clearedFifos (w ||| 0x30#32)) := by
  have hw : withClears w = w ||| 0x30#32 := BitVec.or_assoc w CLEAR_TX CLEAR_RX
  have hstored : (w ||| 0x30#32) &&& csStored = s.bank.cs := by
    rw [or_and_distrib, h.stored, show (0x30#32 : Word) &&& csStored = 0#32 from by decide, BitVec.or_zero]
  have hbit {k : Nat} (hk : (0x30#32 : Word).getLsbD k = true) : (w ||| 0x30#32).getLsbD k = true := by
    rw [BitVec.getLsbD_or, hk, Bool.or_true]
  rw [hw, State.writeCs_stores hstored (fun _ _ => rfl) (fun hta _ => hta), hbit (k := 4) (by decide),
    hbit (k := 5) (by decide)]
  rfl

/-- R143: F5 of a word that shows x, with another configuration than the stored one. -/
theorem Shows.writeCs_faults (h : Shows w x) (hta : s.bank.cs.getLsbD 7 = true) (hkeep : x.getLsbD 7 = true)
    (hchange : x &&& csConfig ≠ s.bank.cs &&& csConfig) : s.writeCs w = .fault (.configActive s.bank.cs w) := by
  refine State.writeCs_configActive ((ta_eq s).trans hta) ?_ (h.config ▸ hchange)
  rw [has_TA, h.stored_bit (by decide), hkeep]

end Sys2Proof.Machine
end

/-! ## Runs of the HOST in thread context (R21, R86) -/

section
namespace Sys2Proof.Machine

open Sys2Proof.Spec

variable {s t u : State} {f f' : Frame}

theorem hostRun_one {r : StepResult} (h : hostStep s = r) : hostRun 1 s = r := by
  rw [hostRun_succ, h]
  cases r <;> rfl

theorem hostRun_add (m n : Nat) (s : State) : hostRun (m + n) s = andThen (hostRun m s) (hostRun n) := by
  induction m generalizing s with
  | zero => rw [Nat.zero_add]; rfl
  | succ m ih =>
    rw [Nat.succ_add, hostRun_succ, hostRun_succ]
    cases hostStep s with
    | next t => exact ih t
    | fault r | refused r => rfl

/-- A run goes on where its first part ended. -/
theorem hostRun_trans {m n : Nat} {r : StepResult} (h : hostRun m s = .next t) (h' : hostRun n t = r) :
    hostRun (n + m) s = r := by
  rw [Nat.add_comm, hostRun_add, h, andThen_next, h']

/-- A run goes on where its first step ended. -/
theorem hostRun_step {n : Nat} {r : StepResult} (h : hostStep s = .next t) (h' : hostRun n t = r) :
    hostRun (n + 1) s = r := by
  rw [hostRun_succ, h, andThen_next, h']

theorem andThen_of_next {o : StepResult} {k : State → StepResult} (h : o = .next t) : andThen o k = k t := by
  rw [h, andThen_next]

theorem andThen_of_fault {o : StepResult} {k : State → StepResult} {r : Fault} (h : o = .fault r) :
    andThen o k = .fault r := by
  rw [h, andThen_fault]

/-- R60: a history with two more events or more, one after the other. -/
theorem recorded_cons_cons (b : Book) (e e' : Event) (es : List Event) :
    recorded b (e :: e' :: es) = recorded (recorded b [e]) (e' :: es) := (recorded_recorded b [e] (e' :: es)).symm

/-- In thread context with nothing running there is no operation. -/
theorem stack_of_idle (h : idle s) : s.stack = [] := (State.stack_thread h.1).trans h.2

/-- A line of the innermost operation which moves its position, whatever stands below it. -/
theorem hostStep_moves_on {l : List Frame} (hs : s.stack = f :: l) (h : advance f s = .next (u.moveTo f'))
    (hu : u.stack = s.stack := by rfl) : hostStep s = .next (u.setStack (f' :: l)) := by
  rw [hostStep_running hs, h, State.moveTo_eq_setStack (hu.trans hs)]

/-- s with the thread's operations replaced. -/
def State.withThread (s : State) (l : List Frame) : State := { s with seq.thread := l }

/-! `withThread` changes seq only. -/

@[simp] theorem State.withThread_cfg (s : State) (l : List Frame) : (s.withThread l).cfg = s.cfg := rfl
@[simp] theorem State.withThread_bank (s : State) (l : List Frame) : (s.withThread l).bank = s.bank := rfl
@[simp] theorem State.withThread_eng (s : State) (l : List Frame) : (s.withThread l).eng = s.eng := rfl
@[simp] theorem State.withThread_mem (s : State) (l : List Frame) : (s.withThread l).mem = s.mem := rfl
@[simp] theorem State.withThread_host (s : State) (l : List Frame) : (s.withThread l).host = s.host := rfl
@[simp] theorem State.withThread_book (s : State) (l : List Frame) : (s.withThread l).book = s.book := rfl
@[simp] theorem State.withThread_env (s : State) (l : List Frame) : (s.withThread l).env = s.env := rfl

/-- R140: a CS read is recorded. -/
theorem State.readCs_book (s : State) : s.readCs.book = recorded s.book [csReadEv s.csRdata] := rfl

/-- R140: its value is RDATA. -/
theorem State.readCs_host (s : State) : s.readCs.host = withRdata s.host s.csRdata := rfl

/-- An operation that the program issues. -/
theorem State.push_of_idle (h : idle s) (f : Frame) : s.push f = s.withThread [f] := by
  rw [State.push, stack_of_idle h, State.setStack_thread h.1, State.withThread]

/-- Where nothing runs there is nothing to replace. -/
theorem State.withThread_of_idle (h : idle s) : s.withThread [] = s := by
  rw [State.withThread, ← h.2]

/-- The step of the operation that the program issued. -/
theorem hostStep_thread {r : StepResult} (hc : s.seq.ctx = .thread) (hs : s.seq.thread = [f]) (h : advance f s = r) :
    hostStep s = r := (hostStep_running ((State.stack_thread hc).trans hs)).trans h

/-- A line of that operation which moves its position. -/
theorem hostStep_moves (hc : s.seq.ctx = .thread) (hs : s.seq.thread = [f])
    (h : advance f s = .next (u.moveTo f'))
    (hu : u.seq.ctx = s.seq.ctx ∧ u.seq.thread = s.seq.thread := by exact ⟨rfl, rfl⟩)
    (ht : u.withThread [f'] = t := by rfl) : hostStep s = .next t := by
  have huc : u.seq.ctx = .thread := hu.1.trans hc
  have hstack : u.stack = [f] := (State.stack_thread huc).trans (hu.2.trans hs)
  rw [hostStep_thread hc hs h, State.moveTo_eq_setStack hstack, State.setStack_thread huc, ← ht,
    State.withThread]

/-- Its last line, which gives the program its result. -/
theorem hostStep_ends {r : OpResult} (hc : s.seq.ctx = .thread) (hs : s.seq.thread = [f])
    (h : advance f s = .next (u.finish r))
    (hu : u.seq.ctx = s.seq.ctx ∧ u.seq.thread = s.seq.thread := by exact ⟨rfl, rfl⟩)
    (ht : (u.withThread []).endCommand r = t := by rfl) : hostStep s = .next t := by
  have huc : u.seq.ctx = .thread := hu.1.trans hc
  rw [hostStep_thread hc hs h, State.finish_to_program huc ((State.stack_thread huc).trans (hu.2.trans hs)),
    ← ht, State.withThread]

end Sys2Proof.Machine
end

/-! ## INITIALIZE (R230 to R232) -/

section
namespace Sys2Proof.Machine

open Sys2Proof.Spec

variable {s : State}

/-- R231: the quiescent value stores 0 and empties both FIFOs. -/
theorem State.writeCs_quiescent (hmid : ¬ midByte s) :
    s.writeCs quiescentCs =
      .next { s with
        bank.cs := 0#32
        eng.txq := []
        eng.rxq := []
        book := recorded s.book [csWriteEv 0x00000030#32] } :=
  State.writeCs_stores (x := 0#32) (by decide) (fun _ h => by simp at h) (fun hta hbusy => absurd ⟨hta, hbusy⟩ hmid)

/-- R232: CLK's write of a 16-bit value. -/
theorem State.writeClk_zextHalf (s : State) (h : Half) :
    s.writeClk (zextHalf h) =
      { s with bank.cdiv := h, book := recorded s.book [.bus .clkWrite 0x08#8 (h.setWidth 32)] } := by
  have hlow : (zextHalf h).extractLsb' 0 16 = h := by
    rw [zextHalf, BitVec.extractLsb'_setWidth_of_le (by decide), BitVec.extractLsb'_eq_self]
  rw [State.writeClk, hlow]
  rfl

/-- Settles O26: the CS write meets F6 mid-byte, and no condition otherwise; the writes of CLK and DLEN meet none. -/
theorem initializeReachesTheQuiescentState : Obligations.InitializeReachesTheQuiescentState := by
  intro s hi
  have hc := hi.1
  let t : State := (s.log .pins).withThread [.initF .writeCs]
  refine ⟨t, congrArg Host.Outcome.next (State.push_of_idle (s := s.log .pins) hi _), rfl, fun hmid => ?_,
    fun hmid => ?_⟩
  · have hfault : t.writeCs quiescentCs = .fault (.taMidbyte s.bank.cs quiescentCs) :=
      State.writeCs_taMidbyte ((ta_eq s).trans hmid.1) (by decide) hmid.2
    exact hostRun_one (hostStep_thread hc rfl (andThen_of_fault hfault))
  · rw [recorded_cons_cons, recorded_cons_cons, recorded_cons_cons]
    refine hostRun_step (hostStep_moves hc rfl (andThen_of_next (State.writeCs_quiescent hmid))) ?_
    refine hostRun_step (hostStep_moves hc rfl rfl) ?_
    refine hostRun_one (hostStep_ends hc rfl rfl (ht := ?_))
    rw [State.writeClk_zextHalf, State.writeDlen_zextHalf, ← State.withThread_of_idle hi]
    rfl

end Sys2Proof.Machine
end

/-! ## TRANSFER (R260 to R269) -/

section
namespace Sys2Proof.Machine

open Sys2Proof.Spec

variable {s t : State} {d : Nat} {D : LogicalDevice} {src dst : Option Nat} {n w : Word} {l : List Frame}

/-! ### The decision (R264) -/

theorem eq_countMin_iff (n : Word) : n = countMin ↔ n.toInt = -2147483648 :=
  ⟨fun h => h ▸ by decide, fun h => BitVec.eq_of_toInt_eq h⟩

/-- R261: DMAEN decides first. -/
theorem transferDecide_dma (n : Word) (D : LogicalDevice) (hdma : w.getLsbD 8 = true) :
    transferDecide w n D = some .logUnsupported := by
  rw [transferDecide, has_DMAEN, if_pos hdma]

/-- R262: −2^31 has no magnitude. -/
theorem transferDecide_countMin (D : LogicalDevice) (hdma : w.getLsbD 8 = false) (hn : n.toInt = -2147483648) :
    transferDecide w n D = none := by
  rw [transferDecide, has_DMAEN, hdma, if_neg Bool.false_ne_true, if_pos ((eq_countMin_iff n).mpr hn)]

/-- R265: any other negative count arms. -/
theorem transferDecide_negative (D : LogicalDevice) (hdma : w.getLsbD 8 = false) (hneg : n.toInt < 0)
    (hmin : n.toInt ≠ -2147483648) : transferDecide w n D = some .armIn := by
  rw [transferDecide, has_DMAEN, hdma, if_neg Bool.false_ne_true, if_neg ((eq_countMin_iff n).not.mpr hmin),
    signed, if_pos hneg]

/-- R266, R267: a count that is not negative moves bytes, re-entrantly where the device requests interrupts. -/
theorem transferDecide_nonneg {irq : Bool} (hdma : w.getLsbD 8 = false) (hn : 0 ≤ n.toInt) (hirq : D.wantsIrq = irq) :
    transferDecide w n D = some (bif irq then .chunkPump else .taRead) := by
  rw [transferDecide, has_DMAEN, hdma, if_neg Bool.false_ne_true, if_neg ((eq_countMin_iff n).not.mpr (by omega)),
    signed, if_neg (Int.not_lt.mpr hn), hirq]
  cases irq <;> rfl

/-- R140: the CS read that TRANSFER decides on shows DMAEN. -/
theorem csRdata_dmaen (s : State) : s.csRdata.getLsbD 8 = s.bank.cs.getLsbD 8 := csRdata_stored_bit s (by decide)

/-- R260: TRANSFER's first step, where it goes on. -/
theorem execTransfer_goes_on {pos : TransferPos} (hi : idle s) (hdev : s.dev? d = some D)
    (hpos : transferDecide s.csRdata n D = some pos) :
    exec (.transfer d src dst n) s = .next (s.readCs.withThread [.transferF d src dst n pos]) := by
  rw [exec, execTransfer, hdev]
  simp only [hpos]
  rw [State.push_of_idle (s := s.readCs) hi]

/-- Settles O34: the CS read shows DMAEN, and the one line after it logs and ends. -/
theorem transferWithDmaEnabledIsUnsupported : Obligations.TransferWithDmaEnabledIsUnsupported := by
  intro s d D src dst n hi _ hdev hdma
  have hpos := transferDecide_dma n D ((csRdata_dmaen s).trans hdma)
  refine ⟨_, s.csRdata, s.drawn.env, execTransfer_goes_on hi hdev hpos, s.drawn_sameInputs,
    hostRun_one (hostStep_ends hi.1 rfl rfl (ht := ?_))⟩
  rw [recorded_cons_cons, ← State.withThread_of_idle hi]
  rfl

/-- Settles O35: TRANSFER's first step gives the program the result. -/
theorem transferRejectsTheMinimumCount : Obligations.TransferRejectsTheMinimumCount := by
  intro s d D src dst n hi _ hdev hdma hn
  have hpos := transferDecide_countMin D ((csRdata_dmaen s).trans hdma) hn
  refine ⟨s.csRdata, s.drawn.env, s.drawn_sameInputs, ?_⟩
  rw [exec, execTransfer, hdev]
  simp only [hpos]
  rw [State.deliver_program (s := s.readCs) hi.1 (stack_of_idle hi)]
  rfl

/-! ### Arming (R265) -/

theorem State.updateDev_updateDev (s : State) (d : Nat) (f g : LogicalDevice → LogicalDevice) :
    (s.updateDev d f).updateDev d g = s.updateDev d (g ∘ f) := by
  simp only [State.updateDev, List.modify_modify_eq]

/-- The machine with another record of device d. -/
def State.setDev (s : State) (d : Nat) (D : LogicalDevice) : State := { s with seq.devs := s.seq.devs.set d D }

/-- R265: the three assignments to the device, one after the other. -/
theorem State.updateDev_arm (hdev : s.dev? d = some D) (hneg : n.toInt < 0) (hmin : n.toInt ≠ -2147483648) :
    ((s.updateDev d (·.setSrc src)).updateDev d (·.setDst dst)).updateDev d (·.setRemaining (-(signed n))) =
      s.setDev d { D with src := src, dst := dst, remaining := -n.toInt } := by
  have hle : -2147483648 ≤ n.toInt := n.le_toInt
  have hrange : inInt32 (-n.toInt) = true := by
    rw [inInt32, Bool.and_eq_true, decide_eq_true_iff, decide_eq_true_iff]
    omega
  rw [State.updateDev_updateDev, State.updateDev_updateDev, State.updateDev_set hdev, signed]
  simp only [Function.comp, LogicalDevice.setRemaining, hrange, if_true]
  rfl

/-- R391: s after the write of the errata value to DLEN. -/
def State.wroteErrata (s : State) : State :=
  { s with
    bank.dlen := s.cfg.errataDlen
    book := recorded s.book [.bus .dlenWrite 0x0C#8 (s.cfg.errataDlen.setWidth 32)] }

theorem State.writeDlen_errata (s : State) : s.writeDlen (zextHalf s.cfg.errataDlen) = s.wroteErrata :=
  s.writeDlen_zextHalf _

/-- R265: the three lines that arm the device. -/
theorem hostRun_armDevice (hc : s.seq.ctx = .thread) (hs : s.seq.thread = [.transferF d src dst n .armIn])
    (hdev : s.dev? d = some D) (hneg : n.toInt < 0) (hmin : n.toInt ≠ -2147483648) :
    hostRun 3 s =
      .next ((s.setDev d { D with src := src, dst := dst, remaining := -n.toInt }).withThread
        [.transferF d src dst n .armDlen]) := by
  rw [← State.updateDev_arm hdev hneg hmin]
  refine hostRun_step (hostStep_moves hc hs rfl) ?_
  refine hostRun_step (hostStep_moves hc rfl rfl) ?_
  exact hostRun_one (hostStep_moves hc rfl rfl)

/-- R265, R267: the read-modify-write that clears both FIFOs, of the armed and of the polled path. -/
theorem hostRun_clearFifos {pos next : TransferPos} (hc : s.seq.ctx = .thread)
    (hs : s.seq.thread = [.transferF d src dst n pos])
    (hpos : (pos = .armClearRead ∧ next = .armTaRead) ∨ (pos = .clearRead ∧ next = .enterCritical))
    (hclean : csClean s) :
    hostRun 2 s =
      .next ((s.readCs.clearedFifos (s.csRdata ||| 0x30#32)).withThread [.transferF d src dst n next]) := by
  have hwrite (l : List Frame) :=
    (csRdata_shows hclean).writeCs_clears (s := s.readCs.withThread l)
  rcases hpos with ⟨rfl, rfl⟩ | ⟨rfl, rfl⟩
  · refine hostRun_step (hostStep_moves hc hs rfl) ?_
    exact hostRun_one (hostStep_moves hc rfl (andThen_of_next (hwrite _)))
  · refine hostRun_step (hostStep_moves hc hs rfl) ?_
    exact hostRun_one (hostStep_moves hc rfl (andThen_of_next (hwrite _)))

/-- R265, R267: the value read, with TA, is written without a fault. -/
theorem writeCs_withTa (hclean : csClean s) : (s.readCs.withThread l).writeCs (withTa s.csRdata) =
    .next ((s.readCs.withThread l).wroteCs (s.bank.cs ||| 0x80#32) (s.csRdata ||| 0x80#32)) :=
  ((csRdata_shows hclean).or (by decide)).writeCs (Storable.or _ (by decide))

/-- R265: the lines of the armed path. -/
theorem hostRun_arm (hc : s.seq.ctx = .thread) (hs : s.seq.thread = [.transferF d src dst n .armIn])
    (hclean : csClean s) (hdev : s.dev? d = some D) (hneg : n.toInt < 0) (hmin : n.toInt ≠ -2147483648) :
    ∃ v2 v3 env, hostRun 8 s =
      .next { s with
        bank := { s.bank with cs := s.bank.cs ||| 0x80#32, dlen := s.cfg.errataDlen }
        eng := { s.eng with txq := [], rxq := [] }
        seq := { s.seq with
          devs := s.seq.devs.set d { D with src := src, dst := dst, remaining := -n.toInt }
          thread := [] }
        host := withRdata (ended s.host .success) v3
        book := recorded s.book
          [.bus .dlenWrite 0x0C#8 (s.cfg.errataDlen.setWidth 32),
           csReadEv v2, csWriteEv (v2 ||| 0x30#32), csReadEv v3, csWriteEv (v3 ||| 0x80#32)]
        env := env } ∧ sameInputs env s.env := by
  let s1 := (s.setDev d { D with src := src, dst := dst, remaining := -n.toInt }).wroteErrata.withThread
    [.transferF d src dst n .armClearRead]
  let s2 := (s1.readCs.clearedFifos (s1.csRdata ||| 0x30#32)).withThread [.transferF d src dst n .armTaRead]
  refine ⟨s1.csRdata, s2.csRdata, s2.drawn.env, ?_, ⟨rfl, rfl⟩⟩
  simp only [recorded_cons_cons]
  refine hostRun_trans (hostRun_armDevice hc hs hdev hneg hmin) ?_
  refine hostRun_step (t := s1) (hostStep_moves hc rfl rfl (ht := by rw [State.writeDlen_errata]; rfl)) ?_
  refine hostRun_trans (t := s2) (hostRun_clearFifos hc rfl (.inl ⟨rfl, rfl⟩) hclean) ?_
  refine hostRun_step (hostStep_moves hc rfl rfl) ?_
  exact hostRun_one (hostStep_ends hc rfl (andThen_of_next (writeCs_withTa (s := s2) hclean)))

end Sys2Proof.Machine
end

/-! ## TRANSFER's paths around its PUMP (R264 to R269) -/

section
namespace Sys2Proof.Machine

open Sys2Proof.Spec

variable {s t : State} {d : Nat} {D : LogicalDevice} {src dst : Option Nat} {n : Word} {l : List Frame}

/-- Settles O36: the CS read shows DMAEN = 0 and the sign of the count decides for the armed path. -/
theorem negativeCountArmsTheDevice : Obligations.NegativeCountArmsTheDevice := by
  intro s d D src dst n hi hclean hdev hdma hneg hmin
  have hpos := transferDecide_negative D ((csRdata_dmaen s).trans hdma) hneg hmin
  obtain ⟨v2, v3, env, hrun, hin⟩ := hostRun_arm (s := s.readCs.withThread [.transferF d src dst n .armIn])
    hi.1 rfl hclean hdev hneg hmin
  refine ⟨_, _, s.csRdata, v2, v3, execTransfer_goes_on hi hdev hpos, hrun, rfl, rfl, ?_, rfl, rfl, hin, rfl, ?_⟩
  · rw [← State.withThread_of_idle hi]
    rfl
  · exact recorded_recorded s.book [csReadEv s.csRdata] _

/-! ### The polled path (R267) -/

/-- R267, R263: the polled path up to its PUMP. -/
theorem hostRun_toPolledPump (hc : s.seq.ctx = .thread) (hs : s.seq.thread = [.transferF d src dst n .taRead])
    (hclean : csClean s) :
    ∃ u v2 v3 env, hostRun 5 s = .next u ∧
      u = { s with
        bank.cs := s.bank.cs ||| 0x80#32
        eng := { s.eng with txq := [], rxq := [] }
        seq := { s.seq with ie := false, thread := [.transferF d src dst n (.polledPump s.seq.ie)] }
        host := withRdata s.host v3
        book := recorded s.book
          [csReadEv v2, csWriteEv (v2 ||| 0x80#32), csReadEv v3, csWriteEv (v3 ||| 0x30#32)]
        env := env } ∧ sameInputs env s.env := by
  let s1 := (s.readCs.wroteCs (s.bank.cs ||| 0x80#32) (s.csRdata ||| 0x80#32)).withThread
    [.transferF d src dst n .clearRead]
  have hclean1 : csClean s1 := ((csRdata_shows hclean).or (m := 0x80#32) (by decide)).csClean
  let s2 := (s1.readCs.clearedFifos (s1.csRdata ||| 0x30#32)).withThread [.transferF d src dst n .enterCritical]
  let u := ({ s2 with seq.ie := false } : State).withThread [.transferF d src dst n (.polledPump s.seq.ie)]
  refine ⟨u, s.csRdata, s1.csRdata, s1.drawn.env, ?_, by simp only [recorded_cons_cons]; rfl, ⟨rfl, rfl⟩⟩
  refine hostRun_step (hostStep_moves hc hs rfl) ?_
  refine hostRun_step (t := s1) (hostStep_moves hc rfl (andThen_of_next (writeCs_withTa hclean))) ?_
  refine hostRun_trans (t := s2) (hostRun_clearFifos hc rfl (.inr ⟨rfl, rfl⟩) hclean1) ?_
  exact hostRun_one (hostStep_moves hc rfl rfl)

/-- R250 step 1: the TRANSFER that waits for its PUMP issues it. -/
theorem execPump_atPump {pos : TransferPos} (hpos : atPump pos) (hs : s.stack = .transferF d src dst n pos :: l)
    (hdev : s.dev? d = some D) :
    execPump d src dst n n s =
      .next (s.wroteErrata.setStack
        (.pumpF d src dst (.begin n n) (pumpHead src dst (.begin n n)) :: s.stack)) := by
  have hlt : d < s.seq.devs.length := (List.getElem?_eq_some_iff.mp hdev).1
  have hcall := State.calledByTransfer_iff.mpr ⟨pos, l, hs, rfl, hpos⟩
  rw [execPump_called hlt hcall, State.writeDlen_errata]
  rfl

/-- Settles O37: the five lines before the PUMP, and PUMP's first step, which TRANSFER's next line is. -/
theorem polledTransferReachesItsPump : Obligations.PolledTransferReachesItsPump := by
  intro s d D src dst n hi hclean hdev hdma hn hdone hrecv
  have hpos := transferDecide_nonneg ((csRdata_dmaen s).trans hdma) hn (show D.wantsIrq = false by
    rw [LogicalDevice.wantsIrq, hdone, hrecv, Bool.or_false])
  obtain ⟨u, v2, v3, env, hrun, hu, hin⟩ :=
    hostRun_toPolledPump (s := s.readCs.withThread [.transferF d src dst n .taRead]) hi.1 rfl hclean
  subst hu
  refine ⟨_, _, _, s.csRdata, v2, v3, env, execTransfer_goes_on hi hdev hpos, hrun, hin, ?_,
    execPump_atPump (.inr ⟨_, rfl⟩) (State.stack_thread hi.1) hdev,
    hostStep_thread hi.1 rfl (execPump_atPump (.inr ⟨_, rfl⟩) (State.stack_thread hi.1) hdev), rfl, rfl, rfl, rfl⟩
  simp only [recorded_cons_cons]
  rfl

/-- R267, R263, R268: the lines after the PUMP has returned. -/
theorem hostRun_leaveCritical {saved : Bool} (hc : s.seq.ctx = .thread)
    (hs : s.seq.thread = [.transferF d src dst n (.leaveCritical saved false)]) (hclean : csClean s)
    (hmid : ¬ midByte s) :
    hostRun 3 s =
      .next { s with
        bank.cs := s.bank.cs &&& ~~~0x80#32
        seq := { s.seq with ie := saved, thread := [] }
        host := withRdata (ended s.host .success) s.csRdata
        book := recorded s.book [csReadEv s.csRdata, csWriteEv (s.csRdata &&& ~~~0x80#32)]
        env := s.drawn.env } := by
  simp only [recorded_cons_cons]
  refine hostRun_step (hostStep_moves hc hs rfl) ?_
  refine hostRun_step (hostStep_moves hc rfl rfl) ?_
  have hwrite (l : List Frame) : (({ s with seq.ie := saved } : State).readCs.withThread l).writeCs _ = _ :=
    ((csRdata_shows hclean).and (~~~0x80#32)).writeCs (Storable.clearTa hmid)
  exact hostRun_one (hostStep_ends hc rfl (andThen_of_next (hwrite _)))

/-- Settles O38: the three lines after the PUMP. -/
theorem polledTransferEndsWithTaCleared : Obligations.PolledTransferEndsWithTaCleared := by
  intro s d src dst n saved hclean hmid hc hs
  exact ⟨s.csRdata, s.drawn.env, hostRun_leaveCritical hc hs hclean hmid⟩

/-! ### The re-entrant path (R266) -/

/-- R266: what a re-entrant chunk of r bytes leaves of the device. -/
def LogicalDevice.afterChunk (r : Nat) (D : LogicalDevice) : LogicalDevice :=
  { D with remaining := D.remaining - r, src := D.src.map (· + r), dst := D.dst.map (· + r) }

theorem State.updateDev_afterChunk {r : Nat} (hdev : s.dev? d = some D) (hr : inInt32 (D.remaining - r) = true) :
    ((s.updateDev d (·.subtract r)).updateDev d (·.advanceSrc r)).updateDev d (·.advanceDst r) =
      s.setDev d (D.afterChunk r) := by
  rw [State.updateDev_updateDev, State.updateDev_updateDev, State.updateDev_set hdev]
  simp only [Function.comp, LogicalDevice.subtract, LogicalDevice.setRemaining, hr, if_true]
  rfl

theorem State.updateDev_setStack (s : State) (d : Nat) (f : LogicalDevice → LogicalDevice) (l : List Frame) :
    (s.setStack l).updateDev d f = (s.updateDev d f).setStack l := rfl

/-- R266: the lines after the PUMP of a re-entrant chunk has returned r. -/
theorem hostRun_chunk {r : Nat} (hs : s.stack = .transferF d src dst n (.chunkRemaining r) :: l)
    (hdev : s.dev? d = some D) (hr : inInt32 (D.remaining - r) = true) :
    hostRun 3 s =
      .next (((s.setDev d (D.afterChunk r)).setStack (.transferF d src dst n (.chunkOut r) :: l)).finish .success) := by
  refine hostRun_step (hostStep_moves_on hs rfl) ?_
  refine hostRun_step (hostStep_moves_on (State.stack_setStack _ _) rfl) ?_
  refine hostRun_one ((hostStep_running (State.stack_setStack _ _)).trans ?_)
  rw [← State.updateDev_afterChunk hdev hr, State.updateDev_setStack, State.setStack_setStack]
  rfl

/-- Settles O40: the first step goes to the PUMP; the three lines after it take the chunk from the device, and end
towards the handler or the program. -/
theorem reentrantChunkUpdatesTheDevice : Obligations.ReentrantChunkUpdatesTheDevice := by
  intro s d e D src dst n r hdev
  refine ⟨fun hi _ hdma hn hirq => ?_, fun hpos hr hc hs hchunk => ?_, fun hr hc hs => ?_⟩
  · have hwait := transferDecide_nonneg ((csRdata_dmaen s).trans hdma) hn (show D.wantsIrq = true from
      (Bool.or_eq_true _ _).mpr hirq)
    exact ⟨s.csRdata, s.drawn.env, execTransfer_goes_on hi hdev hwait⟩
  · rw [hostRun_chunk ((State.stack_interrupt hc).trans hs) hdev hr,
      State.finish_to_caller (State.stack_setStack _ _), Frame.resume_atChunk hchunk, State.setStack_setStack,
      State.setStack_interrupt (s := s.setDev d _) hc]
    rfl
  · let t := (s.setDev d (D.afterChunk r)).setStack [.transferF d src dst n (.chunkOut r)]
    rw [hostRun_chunk ((State.stack_thread hc).trans hs) hdev hr,
      State.finish_to_program (s := t) hc (State.stack_setStack _ _)]
    rw [show t = _ from State.setStack_thread (s := s.setDev d _) hc _]
    rfl

end Sys2Proof.Machine
end

/-! ## PUMP's lines (R250 to R256) -/

section
namespace Sys2Proof.Machine

open Sys2Proof.Spec

variable {s t : State} {d : Nat} {D : LogicalDevice} {src dst : Option Nat} {n w : Word} {q : TransferRequest}
  {pos : TransferPos} {l : List Frame}

@[simp] theorem State.setStack_stack (s : State) : s.setStack s.stack = s := by
  obtain ⟨_, _, _, ⟨_, _, _, c, _, _, _⟩, _, _, _, _⟩ := s
  cases c <;> rfl

/-! ### The loop body (R251) -/

/-- R250 step 2, R251: the model's line after a TX step is the one of the statements. -/
theorem pumpAfterTx_eq_afterTx (src dst : Option Nat) (q : TransferRequest) :
    pumpAfterTx src dst q = afterTx src dst q := by
  simp only [pumpAfterTx, afterTx, pumpHead_eq_loopTest, Option.isSome_iff_ne_none]

theorem zextByte_low (b : Byte) : (zextByte b).extractLsb' 0 8 = b := by
  rw [zextByte, BitVec.extractLsb'_setWidth_of_le (by decide), BitVec.extractLsb'_eq_self]

/-- R250: a line of the TX step, the push or the filler push, appends one byte and counts it sent. -/
theorem hostStep_sends {p : PumpPos} (hs : s.stack = .pumpF d src dst q p :: l)
    (hp : pumpAdvance d src dst q p s =
      andThen (s.writeFifo w) fun s => .next (s.moveTo (.pumpF d src dst q.sent (pumpAfterTx src dst q.sent))))
    (hstd : standardMode s) (hta : s.bank.cs.getLsbD 7 = true) (hroom : s.eng.txq.length ≠ s.cfg.fifoDepth) :
    hostStep s = .next (({ s with
      eng.txq := s.eng.txq ++ [w.extractLsb' 0 8]
      book := recorded s.book [.bus .fifoWrite 0x04#8 w] } : State).setStack
      (.pumpF d src dst q.sent (afterTx src dst q.sent) :: l)) := by
  obtain ⟨hdma, hlen, hren⟩ := modes_of_standardMode hstd
  rw [← pumpAfterTx_eq_afterTx]
  refine hostStep_moves_on hs (hp.trans ?_)
  rw [State.writeFifo_of_ok w hdma ((ta_eq s).trans hta) hlen hren hroom, andThen_next]
  rfl

/-- R250: the push sends the next byte of the input buffer. -/
theorem hostStep_push {a : Nat} (hs : s.stack = .pumpF d (some a) dst q .push :: l)
    (hstd : standardMode s) (hta : s.bank.cs.getLsbD 7 = true) (hroom : s.eng.txq.length ≠ s.cfg.fifoDepth) :
    hostStep s = .next (({ s with
      eng.txq := s.eng.txq ++ [s.memByte (a + q.tx)]
      book := recorded s.book [.bus .fifoWrite 0x04#8 ((s.memByte (a + q.tx)).setWidth 32)] } : State).setStack
      (.pumpF d (some a) dst q.sent (afterTx (some a) dst q.sent) :: l)) := by
  rw [hostStep_sends hs rfl hstd hta hroom, zextByte_low]
  rfl

/-- R154: the FIFO read of a byte, in standard mode with TA = 1. -/
def State.popped (s : State) : State :=
  { s with
    eng.rxq := s.eng.rxq.tail
    host := withRdata s.host s.fifoRdata
    book := recorded s.book [.bus .fifoRead 0x04#8 s.fifoRdata]
    env := s.drawn.env }

theorem State.readFifo_popped (hstd : standardMode s) (hta : s.bank.cs.getLsbD 7 = true) :
    s.readFifo = .next s.popped := by
  obtain ⟨hdma, hlen, hren⟩ := modes_of_standardMode hstd
  exact State.readFifo_of_ok hdma ((ta_eq s).trans hta) hlen hren

/-- R250: the pop keeps the oldest received byte for the store. -/
theorem hostStep_pop {b : Byte} {rest : List Byte} (hs : s.stack = .pumpF d src dst q .pop :: l)
    (hstd : standardMode s) (hta : s.bank.cs.getLsbD 7 = true) (hrx : s.eng.rxq = b :: rest) :
    hostStep s = .next (s.popped.setStack (.pumpF d src dst q (.store b) :: l)) := by
  refine hostStep_moves_on hs ((andThen_of_next (State.readFifo_popped hstd hta)).trans ?_)
  rw [show s.popped.host.rdata.extractLsb' 0 8 = b from State.fifoRdata_low hrx]

/-- R250, R95: the store writes it to the next byte of the output buffer and counts it received. -/
theorem hostStep_store {a : Nat} {b : Byte} (hs : s.stack = .pumpF d src (some a) q (.store b) :: l) :
    hostStep s = .next ((s.memStore (a + q.rx) b).setStack
      (.pumpF d src (some a) q.received (loopTest src (some a) q.received) :: l)) := by
  rw [← pumpHead_eq_loopTest]
  exact hostStep_moves_on hs rfl

/-- Settles O43: one clause for each line of the loop body. -/
theorem pumpLoopBodyMovesOneByteEachWay : Obligations.PumpLoopBodyMovesOneByteEachWay := by
  intro s d src dst q l hstd hta
  refine ⟨fun a hsrc hs hroom => ?_, fun hs hroom => ?_, fun b rest hrx hs => ?_, fun a b hdst hs => ?_⟩
  · subst hsrc
    exact hostStep_push hs hstd hta hroom
  · exact hostStep_sends hs rfl hstd hta hroom
  · refine ⟨s.fifoRdata, s.drawn.env, (hostStep_pop hs hstd hta hrx).trans ?_⟩
    rw [State.popped, hrx, List.tail_cons]
  · subst hdst
    exact hostStep_store hs

/-! ### The drain and the DONE wait (R254 to R256) -/

/-- R254: the drain's CS read shows RXD, which decides where PUMP goes on. -/
theorem hostStep_drainRead (hs : s.stack = .pumpF d src dst q .drainRead :: l) (hclean : csClean s) :
    hostStep s = .next (s.readCs.setStack
      (.pumpF d src dst q (if s.rxd = true then .drainPop else .waitDone 0) :: l)) := by
  rw [hostStep_moves_on hs rfl, has_RXD, csRdata_rxd (storedOnly_of_csClean hclean)]

/-- R102: a poll whose flag reads 1 goes on. -/
theorem State.poll_met {flag : Word} {polls : Nat} (hflag : Word.has s.csRdata flag = true) (met : State → State)
    (again : Frame) : s.poll flag polls met again = met s.readCs := by
  rw [State.poll, if_pos hflag]

/-- R266, R267: TRANSFER goes on with PUMP's count. -/
theorem Frame.resume_atPump (hpos : atPump pos) (k : Nat) :
    (Frame.transferF d src dst n pos).resume (.count k) = .transferF d src dst n (pumpReturn k pos) := by
  rcases hpos with rfl | ⟨_, rfl⟩ <;> rfl

/-- R255, R256: with TA = 1, the TX FIFO empty and no byte in flight the DONE wait ends, and PUMP with it. -/
theorem hostStep_done {p : Nat} (hpos : atPump pos)
    (hs : s.stack = .pumpF d src dst q (.waitDone p) :: .transferF d src dst n pos :: l) (hclean : csClean s)
    (hta : s.bank.cs.getLsbD 7 = true) (hbusy : s.eng.busy = false) (htx : s.eng.txq = []) :
    hostStep s =
      .next (s.readCs.setStack (.transferF d src dst n (pumpReturn (max q.tx q.rx) pos) :: l)) := by
  have hdone : Word.has s.csRdata DONE = true := by
    rw [has_DONE, csRdata_done (storedOnly_of_csClean hclean), State.done_eq, hta, hbusy, htx]
    rfl
  have hread : s.readCs.stack = _ := hs
  rw [hostStep_running hs, advance, pumpAdvance, State.poll_met hdone, State.finish_to_caller hread,
    Frame.resume_atPump hpos]

/-- R254 to R256: at its drain with the RX FIFO empty and DONE = 1 PUMP makes two CS reads and returns. -/
theorem hostRun_drained (hpos : atPump pos)
    (hs : s.stack = .pumpF d src dst q .drainRead :: .transferF d src dst n pos :: l) (hclean : csClean s)
    (hta : s.bank.cs.getLsbD 7 = true) (hbusy : s.eng.busy = false) (htx : s.eng.txq = []) (hrx : s.eng.rxq = []) :
    hostRun 2 s =
      .next (s.readCs.readCs.setStack (.transferF d src dst n (pumpReturn (max q.tx q.rx) pos) :: l)) := by
  have hempty : ¬ s.rxd = true := by rw [State.rxd, hrx]; decide
  have hdrain := hostStep_drainRead hs hclean
  rw [if_neg hempty] at hdrain
  refine (hostRun_two hdrain (hostStep_done hpos (State.stack_setStack _ _) hclean hta hbusy htx)).trans ?_
  exact congrArg Host.Outcome.next (State.setStack_setStack s.readCs.readCs _ _)

/-- R254: at its drain with a received byte left PUMP reads CS, pops that byte and stands at the drain again. -/
theorem hostRun_drainsByte {b : Byte} {rest : List Byte} (hs : s.stack = .pumpF d src dst q .drainRead :: l)
    (hclean : csClean s) (hstd : standardMode s) (hta : s.bank.cs.getLsbD 7 = true) (hrx : s.eng.rxq = b :: rest) :
    hostRun 2 s = .next s.readCs.popped := by
  have hfull : s.rxd = true := by rw [State.rxd, hrx]; rfl
  have hdrain := hostStep_drainRead hs hclean
  rw [if_pos hfull] at hdrain
  let t := s.readCs.setStack (.pumpF d src dst q .drainPop :: l)
  have hpop : hostStep t = .next (t.popped.setStack (.pumpF d src dst q .drainRead :: l)) :=
    hostStep_moves_on (State.stack_setStack _ _) (andThen_of_next (State.readFifo_popped hstd hta))
  have hback : t.popped.setStack s.stack = s.readCs.popped :=
    calc t.popped.setStack s.stack
        = s.readCs.popped.setStack s.readCs.popped.stack := State.setStack_setStack s.readCs.popped _ _
      _ = s.readCs.popped := State.setStack_stack _
  rw [hostRun_two hdrain hpop, ← hs, hback]

/-- Settles O44: the drain's read shows RXD; a byte there is popped, and with none the DONE wait is over at once. -/
theorem pumpDrainsAndReturnsTheLargerCount : Obligations.PumpDrainsAndReturnsTheLargerCount := by
  intro s d src dst n q pos l hclean hstd hta hpos hs
  refine ⟨fun b rest hrx => ?_, fun hbusy htx hrx => ?_⟩
  · refine ⟨s.csRdata, s.readCs.fifoRdata, s.readCs.drawn.env, ⟨rfl, rfl⟩, ?_⟩
    rw [hostRun_drainsByte hs hclean hstd hta hrx, recorded_cons_cons, State.popped]
    simp only [State.readCs_eng, hrx, List.tail_cons]
    rfl
  · refine ⟨s.csRdata, s.readCs.csRdata, s.readCs.drawn.env, ⟨rfl, rfl⟩, ?_⟩
    rw [recorded_cons_cons]
    exact hostRun_drained hpos hs hclean hta hbusy htx hrx

end Sys2Proof.Machine
end

/-! ## A polled TRANSFER of no bytes (R269 cases 1 and 2) -/

section
namespace Sys2Proof.Machine

open Sys2Proof.Spec

variable {s : State} {d : Nat} {D : LogicalDevice} {src dst : Option Nat} {n : Word}

/-- R250, R251: with no bytes to move PUMP begins at its drain. -/
theorem pumpHead_of_no_bytes (hnone : n = 0#32 ∨ (src = none ∧ dst = none)) :
    pumpHead src dst (.begin n n) = .drainRead := by
  rcases hnone with rfl | ⟨rfl, rfl⟩ <;> simp [pumpHead, TransferRequest.begin]

/-- R252, R255, R256: the PUMP of no bytes: its DLEN write, one drain read and one DONE read. -/
theorem hostRun_pumpOfNoBytes {saved : Bool} (hc : s.seq.ctx = .thread)
    (hs : s.seq.thread = [.transferF d src dst n (.polledPump saved)]) (hdev : s.dev? d = some D)
    (hnone : n = 0#32 ∨ (src = none ∧ dst = none)) (hclean : csClean s) (hta : s.bank.cs.getLsbD 7 = true)
    (hbusy : s.eng.busy = false) (htx : s.eng.txq = []) (hrx : s.eng.rxq = []) :
    hostRun 3 s =
      .next (s.wroteErrata.readCs.readCs.withThread [.transferF d src dst n (.leaveCritical saved false)]) := by
  let p := s.wroteErrata.withThread
    [.pumpF d src dst (.begin n n) .drainRead, .transferF d src dst n (.polledPump saved)]
  have hstack := (State.stack_thread hc).trans hs
  have hpump := execPump_atPump (.inr ⟨saved, rfl⟩) hstack hdev
  rw [pumpHead_of_no_bytes hnone, State.setStack_thread (s := s.wroteErrata) hc, hstack] at hpump
  have hdrained := hostRun_drained (s := p) (.inr ⟨saved, rfl⟩) (State.stack_thread hc) hclean hta hbusy htx hrx
  rw [State.setStack_thread (s := p.readCs.readCs) hc] at hdrained
  exact hostRun_step (t := p) (hostStep_thread hc hs hpump) hdrained

/-- Settles O39: the lines before the PUMP, the PUMP, and the lines after it. -/
theorem polledTransferOfNoBytesCompletes : Obligations.PolledTransferOfNoBytesCompletes := by
  intro s d D src dst n hi hclean hdev hdma hn hdone hrecv hnone hbusy
  have hpos := transferDecide_nonneg ((csRdata_dmaen s).trans hdma) hn (show D.wantsIrq = false by
    rw [LogicalDevice.wantsIrq, hdone, hrecv, Bool.or_false])
  obtain ⟨u, v2, v3, env, hbefore, hu, hin⟩ :=
    hostRun_toPolledPump (s := s.readCs.withThread [.transferF d src dst n .taRead]) hi.1 rfl hclean
  have hcs : u.bank.cs = s.bank.cs ||| 0x80#32 := congrArg (·.bank.cs) hu
  have hclean' : csClean u := Shows.csClean (hcs ▸ (csRdata_shows hclean).or (by decide))
  have hta : u.bank.cs.getLsbD 7 = true := by rw [hcs, BitVec.getLsbD_or]; exact Bool.or_true _
  have hcleared : (s.bank.cs ||| 0x80#32) &&& ~~~0x80#32 = s.bank.cs &&& ~~~0x80#32 := by
    rw [or_and_distrib, show (0x80#32 : Word) &&& ~~~0x80#32 = 0#32 from by decide, BitVec.or_zero]
  have hidle : u.eng.busy = false := (congrArg (·.eng.busy) hu).trans hbusy
  have hctx : u.seq.ctx = .thread := (congrArg (·.seq.ctx) hu).trans hi.1
  let z := u.wroteErrata.readCs.readCs.withThread [.transferF d src dst n (.leaveCritical s.seq.ie false)]
  have hpump : hostRun 3 u = .next z := hostRun_pumpOfNoBytes hctx (congrArg (·.seq.thread) hu)
    ((congrArg (·.dev? d) hu).trans hdev) hnone hclean' hta hidle (congrArg (·.eng.txq) hu) (congrArg (·.eng.rxq) hu)
  have hnotMid : ¬ midByte z := fun h => Bool.false_ne_true (hidle.symm.trans h.2)
  have hafter := hostRun_leaveCritical (s := z) hctx rfl hclean' hnotMid
  refine ⟨_, s.csRdata, v2, v3, u.wroteErrata.csRdata, u.wroteErrata.readCs.csRdata, z.csRdata, z.drawn.env,
    execTransfer_goes_on hi hdev hpos, ?_, (hostRun_trans hbefore (hostRun_trans hpump hafter)).trans ?_⟩
  · have hsame : sameInputs u.env s.env := by rw [hu]; exact hin
    exact hsame
  · have hcsz : z.bank.cs &&& ~~~0x80#32 = s.bank.cs &&& ~~~0x80#32 := by rw [show z.bank.cs = _ from hcs, hcleared]
    rw [hcsz, ← State.withThread_of_idle hi]
    simp only [recorded_cons_cons] at hu ⊢
    subst hu
    rfl

end Sys2Proof.Machine
end

/-! ## A DONE wait with TA = 0 (R255, R258 case 4, R325) -/

section
namespace Sys2Proof.Machine

open Sys2Proof.Spec

variable {s : State} {d p : Nat} {src dst : Option Nat} {q : TransferRequest} {l : List Frame}

/-- R7: with TA = 0 the ENGINE has no step and no delivery is enabled, so a running operation moves alone. -/
theorem State.chooseAgent_of_inactive (hta : s.ta = false) {f : Frame}
    (hs : s.seq.thread = f :: l) : s.chooseAgent = some (.host, s.waited .host) := by
  have hhost : s.hostEnabled = true := by simp [State.hostEnabled, hs]
  have halone : s.enabledAgents = [.host] := by
    simp [State.enabledAgents, hhost, State.engineEnabled_of_inactive hta, State.deliveryEnabled,
      State.irq_of_inactive hta]
  rw [State.chooseAgent, halone]

/-- What decides whether the run may go on: what is recorded, the parameters and the device records. -/
theorem State.runStop_congr {t : State} {es : List Event} (hbook : t.book = recorded s.book es)
    (hcfg : t.cfg = s.cfg) (hdevs : t.seq.devs = s.seq.devs) : t.runStop = s.runStop := by
  rw [State.runStop, State.runStop, State.callbacksInert, State.callbacksInert, hbook, hcfg, hdevs]
  rfl

/-- R255, R258: the machine's step at the DONE wait is one more poll, which leaves all but RDATA, the history and the
draws. -/
theorem step_waits (hrun : s.runStop = none) (hclean : csClean s) (hta : s.bank.cs.getLsbD 7 = false)
    (ht : s.cfg.timeout = none) (hc : s.seq.ctx = .thread)
    (hs : s.seq.thread = .pumpF d src dst q (.waitDone p) :: l) :
    ∃ t, step s = .next t ∧ t.runStop = none ∧ t.cfg = s.cfg ∧
      t.seq = { s.seq with thread := .pumpF d src dst q (.waitDone (p + 1)) :: l } ∧
      t.bank = s.bank ∧ t.eng = s.eng ∧ t.mem = s.mem ∧ t.host.pc = s.host.pc := by
  have hwait : unsatisfiedWait s .waitDone := .inr (.inr ⟨rfl, fun h => by rw [hta] at h; cases h.1⟩)
  have hpoll := hostStep_polls_again (s := s.waited .host) hclean hwait ((State.stack_thread hc).trans hs) (.inl ht)
  let t := ((s.waited .host).readCs.withThread (.pumpF d src dst q (.waitDone (p + 1)) :: l)).tick
  have hstep : step s = .next t := by
    rw [step_of_host hrun (State.chooseAgent_of_inactive ((ta_eq s).trans hta) hs), hpoll, andThen_next,
      State.setStack_thread (s := (s.waited .host).readCs) hc]
    rfl
  have hbook : t.book = recorded s.book [csReadEv (s.waited .host).csRdata] := by simp [t, State.readCs_book]
  have hpc : t.host.pc = s.host.pc := by simp [t, State.readCs_host, withRdata]
  have hcfg : t.cfg = s.cfg := by simp [t]
  have hseq : t.seq = { s.seq with thread := .pumpF d src dst q (.waitDone (p + 1)) :: l } := rfl
  have hrun' : t.runStop = none := (State.runStop_congr hbook hcfg (by rw [hseq])).trans hrun
  exact ⟨t, hstep, hrun', hcfg, hseq, by simp [t], by simp [t], by simp [t], hpc⟩

/-- Of any machine behind the host's interface: a step, and a run from where it leads. -/
theorem core_run_of_step {M : Host.Core} {k : Nat} {s t : M.State} {r : Host.Outcome M.State M.Fault M.Refusal}
    (h : M.step s = .next t) (h' : M.run k t = r) : M.run (k + 1) s = r := by
  rw [Host.Core.run, h]
  exact h'

/-- Settles O45, by induction on the number of steps: each is one more poll of the same wait. -/
theorem doneWaitWithoutTaHangs : Obligations.DoneWaitWithoutTaHangs := by
  intro k
  induction k with
  | zero =>
    intro s d p src dst q l _ _ _ _ _ hs
    exact ⟨s, p, rfl, by rw [← hs], rfl, rfl, rfl, rfl⟩
  | succ k ih =>
    intro s d p src dst q l hrun hclean hta ht hc hs
    obtain ⟨u, hstep, hurun, hcfg, hseq, hbank, heng, hmem, hpc⟩ := step_waits hrun hclean hta ht hc hs
    have huclean : csClean u := by rw [csClean, hbank]; exact hclean
    obtain ⟨t, p', hk, hrest⟩ := ih u d (p + 1) src dst q l hurun huclean (hbank ▸ hta) (hcfg ▸ ht)
      (by rw [hseq]; exact hc) (by rw [hseq])
    rw [hseq, hbank, heng, hmem, hpc] at hrest
    exact ⟨t, p', core_run_of_step (M := Sys2Proof.core) hstep hk, hrest⟩

end Sys2Proof.Machine
end

/-! ## PUMP through a loopback slave (R250, R252, R256, R192) -/

section
namespace Sys2Proof.Machine

open Sys2Proof.Spec

variable {s t u : State} {d a b n k : Nat} {l m : List Frame}

/-- A block that sends back what it is sent, at rest: standard mode with TA = 1, the FIFOs empty, no byte in flight. -/
structure LoopsBack (s : State) : Prop where
  standard : standardMode s
  clean : csClean s
  active : s.bank.cs.getLsbD 7 = true
  idle : s.eng.busy = false
  txEmpty : s.eng.txq = []
  rxEmpty : s.eng.rxq = []
  depth : 0 < s.cfg.fifoDepth
  loopback : s.env.slave = .loopback
  memWf : Memory.wf s.mem = true

/-- R52: the request of n bytes each way of which k have been moved. -/
def TransferRequest.moved (n k : Nat) : TransferRequest where
  txCount := n
  rxCount := n
  tx := k
  rx := k

/-- R250: PUMP with both buffers, at the loop test with k of n bytes moved. -/
def pumpAt (d a b n k : Nat) : Frame :=
  .pumpF d (some a) (some b) (.moved n k) (loopTest (some a) (some b) (.moved n k))

/-- R251: with bytes left the loop goes on with its TXD wait, and with none it is over. -/
theorem loopTest_moved (a b : Nat) (n k : Nat) :
    loopTest (some a) (some b) (.moved n k) = if k < n then .waitTxd 0 else .drainRead := by
  by_cases hk : k < n <;> simp [loopTest, TransferRequest.moved, hk]

/-- R102, R250: a TXD wait with room in the TX FIFO ends at its first poll. -/
theorem hostStep_txd {src dst : Option Nat} {q : TransferRequest} {p : Nat}
    (hs : s.stack = .pumpF d src dst q (.waitTxd p) :: l) (hclean : csClean s)
    (hroom : s.eng.txq.length < s.cfg.fifoDepth) :
    hostStep s = .next (s.readCs.setStack (.pumpF d src dst q .push :: l)) := by
  have hflag : Word.has s.csRdata TXD = true := by
    rw [has_TXD, csRdata_txd (storedOnly_of_csClean hclean), State.txd, decide_eq_true hroom]
  refine hostStep_moves_on (u := s.readCs) hs ?_
  rw [advance, pumpAdvance, State.poll_met hflag]

/-- R102, R250: an RXD wait with a byte received ends at its first poll. -/
theorem hostStep_rxd {src dst : Option Nat} {q : TransferRequest} {p : Nat}
    (hs : s.stack = .pumpF d src dst q (.waitRxd p) :: l) (hclean : csClean s)
    (hrx : 0 < s.eng.rxq.length) :
    hostStep s = .next (s.readCs.setStack (.pumpF d src dst q .pop :: l)) := by
  have hflag : Word.has s.csRdata RXD = true := by
    rw [has_RXD, csRdata_rxd (storedOnly_of_csClean hclean), State.rxd, decide_eq_true hrx]
  refine hostStep_moves_on (u := s.readCs) hs ?_
  rw [advance, pumpAdvance, State.poll_met hflag]

/-! ### One iteration -/

/-- From s to t the innermost operations have moved to l; the parameters, CS, the SLAVE and the rest of the sequencer are
as they were. -/
structure GoesOn (s t : State) (l : List Frame) : Prop where
  cfg : t.cfg = s.cfg
  cs : t.bank.cs = s.bank.cs
  slave : t.env.slave = s.env.slave
  seq : t.seq = (s.setStack l).seq

theorem State.stack_congr (h : t.seq = s.seq) : t.stack = s.stack := by rw [State.stack, h, State.stack]

theorem State.setStack_seq_congr (h : t.seq = s.seq) (l : List Frame) : (t.setStack l).seq = (s.setStack l).seq := by
  simp only [State.setStack, h]

theorem GoesOn.stack (h : GoesOn s t l) : t.stack = l := (State.stack_congr h.seq).trans (s.stack_setStack l)

theorem GoesOn.trans (h : GoesOn s t l) (h' : GoesOn t u m) : GoesOn s u m where
  cfg := h'.cfg.trans h.cfg
  cs := h'.cs.trans h.cs
  slave := h'.slave.trans h.slave
  seq := by rw [h'.seq, State.setStack_seq_congr h.seq, State.setStack_setStack]

/-- The block goes on sending back what it is sent, once it is at rest again. -/
theorem LoopsBack.goesOn (h : LoopsBack s) (hgo : GoesOn s t l) (hidle : t.eng.busy = false) (htx : t.eng.txq = [])
    (hrx : t.eng.rxq = []) (hmem : Memory.wf t.mem = true) : LoopsBack t where
  standard := by rw [standardMode, hgo.cs]; exact h.standard
  clean := by rw [csClean, hgo.cs]; exact h.clean
  active := hgo.cs ▸ h.active
  idle := hidle
  txEmpty := htx
  rxEmpty := hrx
  depth := hgo.cfg ▸ h.depth
  loopback := hgo.slave.trans h.loopback
  memWf := hmem

/-- R250 step 2, R251: the TXD poll and the push of an iteration. -/
theorem hostRun_pushes (h : LoopsBack s) (hk : k < n) (hs : s.stack = pumpAt d a b n k :: l) :
    ∃ t, hostRun 2 s = .next t ∧
      GoesOn s t (.pumpF d (some a) (some b) (TransferRequest.moved n k).sent (.waitRxd 0) :: l) ∧
      t.eng = { s.eng with txq := [s.memByte (a + k)] } ∧ t.mem = s.mem := by
  rw [pumpAt, loopTest_moved, if_pos hk] at hs
  have hpoll := hostStep_txd hs h.clean (by rw [h.txEmpty]; exact h.depth)
  let s1 := s.readCs.setStack (.pumpF d (some a) (some b) (.moved n k) .push :: l)
  have hroom : s1.eng.txq.length ≠ s1.cfg.fifoDepth := by
    rw [show s1.eng.txq = [] from h.txEmpty]
    exact h.depth.ne
  have hpush := hostStep_push (s := s1) (State.stack_setStack _ _) h.standard h.active hroom
  have hafter : afterTx (some a) (some b) (TransferRequest.moved n k).sent = .waitRxd 0 :=
    if_pos ⟨hk, Option.some_ne_none b⟩
  have htx : s1.eng.txq ++ [s1.memByte (a + k)] = [s.memByte (a + k)] := by
    rw [show s1.eng.txq = [] from h.txEmpty]
    rfl
  rw [hafter] at hpush
  have hgo : GoesOn s s1 _ := ⟨rfl, rfl, rfl, rfl⟩
  exact ⟨_, hostRun_two hpoll hpush, hgo.trans ⟨rfl, rfl, rfl, rfl⟩, congrArg (fun q => { s.eng with txq := q }) htx,
    rfl⟩

/-- R192, R217: the engine sends the byte and stores the same byte. -/
theorem engineByte_echoes {x : Byte} (h : LoopsBack s) (hgo : GoesOn s t l)
    (heng : t.eng = { s.eng with txq := [x] }) :
    ∃ u, engineByte t = .next u ∧ GoesOn t u l ∧ u.eng.txq = [] ∧ u.eng.rxq = [x] ∧ u.eng.busy = false ∧
      u.mem = t.mem := by
  have hstd : standardMode t := by rw [standardMode, hgo.cs]; exact h.standard
  have hrx : t.eng.rxq = [] := by rw [heng]; exact h.rxEmpty
  have hroom : t.eng.rxq.length < t.cfg.fifoDepth := by rw [hrx, hgo.cfg]; exact h.depth
  obtain ⟨m, _, _, _, env, hbyte, -, hin, -, hm⟩ := engineByte_spec hstd (hgo.cs ▸ h.active)
    (by rw [heng]; exact h.idle) (congrArg Engine.txq heng) (.inr hroom)
  obtain rfl := hm (hgo.slave.trans h.loopback)
  rw [if_pos hroom, hrx, List.nil_append] at hbyte
  refine ⟨_, hbyte, ⟨rfl, rfl, hin.1, ?_⟩, rfl, rfl, rfl, rfl⟩
  rw [← hgo.stack, State.setStack_stack]

/-- R250 step 2, R251, R95: the RXD poll, the pop and the store of an iteration. -/
theorem hostRun_receives {x : Byte} (hclean : csClean s) (hstd : standardMode s) (hta : s.bank.cs.getLsbD 7 = true)
    (hs : s.stack = .pumpF d (some a) (some b) (TransferRequest.moved n k).sent (.waitRxd 0) :: l)
    (hrx : s.eng.rxq = [x]) :
    ∃ t, hostRun 3 s = .next t ∧ GoesOn s t (pumpAt d a b n (k + 1) :: l) ∧ t.eng = { s.eng with rxq := [] } ∧
      t.mem = Memory.write s.mem (b + k) x := by
  have hpoll := hostStep_rxd hs hclean (by rw [hrx]; exact Nat.one_pos)
  let s1 := s.readCs.setStack (.pumpF d (some a) (some b) (TransferRequest.moved n k).sent .pop :: l)
  let s2 := s1.popped.setStack (.pumpF d (some a) (some b) (TransferRequest.moved n k).sent (.store x) :: l)
  have hpop : hostStep s1 = .next s2 := hostStep_pop (State.stack_setStack _ _) hstd hta hrx
  have hstore := hostStep_store (s := s2) (State.stack_setStack _ _)
  have hgo : GoesOn s s1 _ := ⟨rfl, rfl, rfl, rfl⟩
  have hgo' : GoesOn s1 s2 _ := ⟨rfl, rfl, rfl, rfl⟩
  exact ⟨_, hostRun_step hpoll (hostRun_two hpop hstore), (hgo.trans hgo').trans ⟨rfl, rfl, rfl, rfl⟩,
    congrArg (fun q : List Byte => { s.eng with rxq := q.tail }) hrx, rfl⟩

/-- R251: one iteration of the loop moves one byte each way. -/
theorem pumpRound_moves (h : LoopsBack s) (hk : k < n) (hs : s.stack = pumpAt d a b n k :: l) :
    ∃ t, pumpRound s = .next t ∧ LoopsBack t ∧ GoesOn s t (pumpAt d a b n (k + 1) :: l) ∧
      t.mem = Memory.write s.mem (b + k) (s.memByte (a + k)) := by
  obtain ⟨t, hpush, hgo, heng, hmem⟩ := hostRun_pushes h hk hs
  obtain ⟨u, hbyte, hgo', htx, hrx, hidle, hmem'⟩ := engineByte_echoes h hgo heng
  have hgo2 := hgo.trans hgo'
  obtain ⟨v, hpop, hgo'', heng'', hmem''⟩ := hostRun_receives (s := u) (by rw [csClean, hgo2.cs]; exact h.clean)
    (by rw [standardMode, hgo2.cs]; exact h.standard) (hgo2.cs ▸ h.active) hgo2.stack hrx
  have hwritten : v.mem = Memory.write s.mem (b + k) (s.memByte (a + k)) := by rw [hmem'', hmem', hmem]
  have hgo3 := hgo2.trans hgo''
  refine ⟨v, ?_, h.goesOn hgo3 ?_ ?_ ?_ ?_, hgo3, hwritten⟩
  · rw [pumpRound, hpush, andThen_next, hbyte, andThen_next, hpop]
  · rw [heng'']; exact hidle
  · rw [heng'']; exact htx
  · rw [heng'']
  · rw [hwritten]; exact Memory.write_wf h.memWf _ _

/-! ### The whole PUMP -/

/-- R250 step 2: m iterations from the k-th byte on move m bytes, where the buffers are the same or do not overlap. -/
theorem pumpRounds_move {m : Nat} (hbuf : a = b ∨ a + n ≤ b ∨ b + n ≤ a) (h : LoopsBack s) (hm : k + m ≤ n)
    (hs : s.stack = pumpAt d a b n k :: l) :
    ∃ t, pumpRounds m s = .next t ∧ LoopsBack t ∧ GoesOn s t (pumpAt d a b n (k + m) :: l) ∧
      (∀ i, k ≤ i → i < k + m → t.memByte (b + i) = s.memByte (a + i)) ∧
      (∀ x, (x < b + k ∨ b + k + m ≤ x) → t.memByte x = s.memByte x) := by
  induction m generalizing s k with
  | zero =>
    refine ⟨s, rfl, h, ⟨rfl, rfl, rfl, ?_⟩, fun i hi hi' => by omega, fun _ _ => rfl⟩
    rw [Nat.add_zero, ← hs, State.setStack_stack]
  | succ m ih =>
    obtain ⟨t, hround, ht, hgo, hmem⟩ := pumpRound_moves h (show k < n by omega) hs
    have hread (x : Nat) : t.memByte x = if b + k = x then s.memByte (a + k) else s.memByte x := by
      rw [State.memByte, hmem]
      exact Memory.read_write h.memWf _ _ _
    obtain ⟨u, hrest, hu, hgo', hmoved, hkept⟩ := ih ht (show k + 1 + m ≤ n by omega) hgo.stack
    refine ⟨u, ?_, hu, ?_, fun i hi hi' => ?_, fun x hx => ?_⟩
    · rw [pumpRounds, hround, andThen_next, hrest]
    · rw [show k + (m + 1) = k + 1 + m by omega]
      exact hgo.trans hgo'
    · rcases Nat.eq_or_lt_of_le hi with rfl | hlt
      · rw [hkept (b + k) (by omega), hread, if_pos rfl]
      · rw [hmoved i hlt (by omega), hread, if_neg (by omega)]
    · rw [hkept x (by omega), hread, if_neg (by omega)]

/-- Settles O42: n iterations move the n bytes, and at the drain nothing is left and DONE = 1. -/
theorem pumpRoundTripsThroughLoopback : Obligations.PumpRoundTripsThroughLoopback := by
  intro n s d a b cnt pos l hn hstd hclean hwf hta hidle htx hrx hdepth hloop hbuf hpos hs
  have hback : LoopsBack s := ⟨hstd, hclean, hta, hidle, htx, hrx, hdepth, hloop, hwf⟩
  have hstart : s.stack = pumpAt d a b n 0 :: .transferF d (some a) (some b) cnt pos :: l := by
    rw [pumpAt, loopTest_moved, if_pos hn]
    exact hs
  obtain ⟨u, hrun, hu, hgo, hmoved, hkept⟩ := pumpRounds_move hbuf hback (Nat.le_of_eq (Nat.zero_add n)) hstart
  have hdrain : u.stack = .pumpF d (some a) (some b) (.moved n n) .drainRead ::
      .transferF d (some a) (some b) cnt pos :: l := by
    rw [hgo.stack, Nat.zero_add, pumpAt, loopTest_moved, if_neg (Nat.lt_irrefl n)]
  have hreturn := hostRun_drained hpos hdrain hu.clean hu.active hu.idle hu.txEmpty hu.rxEmpty
  refine ⟨u, _, hrun, fun i hi => hmoved i (Nat.zero_le i) (by omega), fun x hx => hkept x (by omega), hu.txEmpty,
    hu.rxEmpty, hu.idle, hgo.cs, hreturn, rfl, rfl, rfl, ?_⟩
  rw [show max (TransferRequest.moved n n).tx (TransferRequest.moved n n).rx = n from Nat.max_self n]
  exact (State.setStack_seq_congr (t := u.readCs.readCs) hgo.seq _).trans (by rw [State.setStack_setStack])

end Sys2Proof.Machine
end

/-! ## SELECT's values and lines (R240 to R245) -/

section
namespace Sys2Proof.Machine

open Sys2Proof.Spec

variable {w x cs : Word} {m c : BitVec 2} {D : LogicalDevice}

/-! ### The values it writes -/

/-- R40: the fields CS and CPHA with CPOL are configuration fields. -/
theorem field_of_config {k : Nat} (hk : csConfig.extractLsb' k 2 = 3#2) (h : w &&& csConfig = x &&& csConfig) :
    w.extractLsb' k 2 = x.extractLsb' k 2 := by
  have hfield := congrArg (BitVec.extractLsb' k 2) h
  rwa [BitVec.extractLsb'_and, BitVec.extractLsb'_and, hk, show 3#2 = BitVec.allOnes 2 from rfl,
    BitVec.and_allOnes, BitVec.and_allOnes] at hfield

/-- The bits of a two-bit field. -/
theorem getLsbD_of_field {k i : Nat} (h : x.extractLsb' k 2 = c) (hki : k ≤ i) (hik : i < k + 2) :
    x.getLsbD i = c.getLsbD (i - k) := by
  rw [← h, BitVec.getLsbD_extractLsb', decide_eq_true (by omega), Bool.true_and, Nat.add_sub_cancel' hki]

theorem withoutMode_eq (x : Word) : withoutMode x = x &&& ~~~0x0000000C#32 := rfl

theorem modeBits_eq (m : BitVec 2) : modeBits m = m.setWidth 32 <<< 2 := by
  revert m
  decide

/-- R242: the mode clear changes nothing where both bits are 0. -/
theorem withoutMode_of_field (h : x.extractLsb' 2 2 = 0#2) : withoutMode x = x := by
  refine BitVec.eq_of_getLsbD_eq fun i hi => ?_
  rw [withoutMode_eq, BitVec.getLsbD_and, BitVec.getLsbD_not, decide_eq_true hi, Bool.true_and]
  by_cases hin : 2 ≤ i ∧ i < 4
  · rw [getLsbD_of_field h hin.1 (by omega), BitVec.getLsbD_zero, Bool.false_and]
  · have hmask : (0x0000000C#32).getLsbD i = false := by
      revert hin
      revert i
      decide
    rw [hmask, Bool.not_false, Bool.and_true]

theorem withMode_zero (x : Word) : withMode x 0#2 = x := BitVec.or_zero

/-- R245: the chip select write changes nothing where the field is the index. -/
theorem withChip_of_field (h : x.extractLsb' 0 2 = c) : withChip x c = x := by
  refine BitVec.eq_of_getLsbD_eq fun i hi => ?_
  rw [withChip, BitVec.getLsbD_or, BitVec.getLsbD_and, BitVec.getLsbD_not, decide_eq_true hi, Bool.true_and,
    BitVec.getLsbD_setWidth, decide_eq_true hi, Bool.true_and]
  by_cases hin : i < 2
  · rw [getLsbD_of_field h (Nat.zero_le i) (by omega), Nat.sub_zero]
    cases c.getLsbD i with
    | true => exact Bool.or_true _
    | false => rfl
  · have hmask : CS_MASK.getLsbD i = false := by
      revert hin
      revert i
      decide
    rw [hmask, Bool.not_false, Bool.and_true, BitVec.getLsbD_of_ge c i (by omega), Bool.or_false]

/-- R240: the three writes one after the other leave the configured CS. -/
theorem withChip_withMode_withoutMode (cs : Word) (m c : BitVec 2) :
    withChip (withMode (withoutMode cs) m) c = configuredCs cs m c := by
  have hmode : modeBits m &&& ~~~CS_MASK = modeBits m := by
    revert m
    decide
  rw [withChip, withMode, or_and_distrib, hmode, withoutMode_eq, BitVec.and_assoc, configuredCs, modeBits_eq]
  rfl

/-- R243: the two enables, one after the other. -/
theorem withEnables_eq (x : Word) (D : LogicalDevice) :
    withEnables x D = x ||| (if D.irqDone then 0x200#32 else 0#32) ||| (if D.irqRecv then 0x400#32 else 0#32) :=
  (BitVec.or_assoc x _ _).symm

/-- R243: without a request there is no enable. -/
theorem withEnables_of_plain (x : Word) (h : D.wantsIrq = false) : withEnables x D = x := by
  obtain ⟨hdone, hrecv⟩ := Bool.or_eq_false_iff.mp h
  rw [withEnables_eq, hdone, hrecv]
  exact BitVec.or_zero.trans BitVec.or_zero

/-- R243: the enables are INTD and INTR. -/
theorem enableBits_sub (D : LogicalDevice) : enableBits D = enableBits D &&& 0x600#32 := by
  unfold enableBits
  cases D.irqDone <;> cases D.irqRecv <;> decide

/-- R243: so they are in no mask that holds neither. -/
theorem enableBits_and {m : Word} (h : 0x600#32 &&& m = 0#32) (D : LogicalDevice) : enableBits D &&& m = 0#32 := by
  rw [enableBits_sub, BitVec.and_assoc, h, BitVec.and_zero]

/-! ### The fields that they keep -/

theorem enableBits_extract {k : Nat} (hk : (0x600#32).extractLsb' k 2 = 0#2) (D : LogicalDevice) :
    (enableBits D).extractLsb' k 2 = 0#2 := by
  rw [enableBits_sub, BitVec.extractLsb'_and, hk, BitVec.and_zero]

/-- R243: the enables are no part of a field that holds neither. -/
theorem withEnables_extract {k : Nat} (hk : (0x600#32).extractLsb' k 2 = 0#2) (x : Word) (D : LogicalDevice) :
    (withEnables x D).extractLsb' k 2 = x.extractLsb' k 2 := by
  rw [withEnables, BitVec.extractLsb'_or, enableBits_extract hk, BitVec.or_zero]

theorem withEnables_ta (x : Word) (D : LogicalDevice) : (withEnables x D).getLsbD 7 = x.getLsbD 7 := by
  rw [withEnables, BitVec.getLsbD_or, enableBits_sub, BitVec.getLsbD_and,
    show (0x600#32).getLsbD 7 = false from by decide, Bool.and_false, Bool.or_false]

theorem withoutMode_ta (x : Word) : (withoutMode x).getLsbD 7 = x.getLsbD 7 := by
  rw [withoutMode_eq, BitVec.getLsbD_and, show (~~~0x0000000C#32 : Word).getLsbD 7 = true from by decide, Bool.and_true]

theorem withMode_ta (x : Word) (m : BitVec 2) : (withMode x m).getLsbD 7 = x.getLsbD 7 := by
  have hmode : (modeBits m).getLsbD 7 = false := by
    revert m
    decide
  rw [withMode, BitVec.getLsbD_or, hmode, Bool.or_false]

theorem withChip_ta (x : Word) (c : BitVec 2) : (withChip x c).getLsbD 7 = x.getLsbD 7 := by
  rw [withChip, BitVec.getLsbD_or, BitVec.getLsbD_and, show (~~~CS_MASK : Word).getLsbD 7 = true from by decide,
    Bool.and_true, BitVec.getLsbD_setWidth, BitVec.getLsbD_of_ge c 7 (by decide), Bool.and_false, Bool.or_false]

/-- R242: the mode clear leaves the mode field 0. -/
theorem withoutMode_extract (x : Word) : (withoutMode x).extractLsb' 2 2 = 0#2 := by
  rw [withoutMode_eq, BitVec.extractLsb'_and, show (~~~0x0000000C#32 : Word).extractLsb' 2 2 = 0#2 from by decide,
    BitVec.and_zero]

/-- R242: the mode set adds the mode to its field. -/
theorem withMode_extract (x : Word) (m : BitVec 2) : (withMode x m).extractLsb' 2 2 = x.extractLsb' 2 2 ||| m := by
  have hmode : (modeBits m).extractLsb' 2 2 = m := by
    revert m
    decide
  rw [withMode, BitVec.extractLsb'_or, hmode]

/-- R245: the chip select write leaves the index in its field. -/
theorem withChip_extract (x : Word) (c : BitVec 2) : (withChip x c).extractLsb' 0 2 = c := by
  rw [withChip, BitVec.extractLsb'_or, BitVec.extractLsb'_and,
    show (~~~CS_MASK : Word).extractLsb' 0 2 = 0#2 from by decide, BitVec.and_zero, BitVec.zero_or,
    BitVec.extractLsb'_setWidth_of_le (by decide), BitVec.extractLsb'_eq_self]

/-! ### When no write changes a configuration field while TA = 1 (R143) -/

/-- R143: SELECT's three writes on a CS that holds cs: with TA = 0, or each of them storing what is there. -/
structure QuietWrites (cs : Word) (m c : BitVec 2) : Prop where
  clear : cs.getLsbD 7 = false ∨ withoutMode cs = cs
  set : (withoutMode cs).getLsbD 7 = false ∨ withMode (withoutMode cs) m = withoutMode cs
  chip : (withMode (withoutMode cs) m).getLsbD 7 = false ∨
    withChip (withMode (withoutMode cs) m) c = withMode (withoutMode cs) m

/-- R143, R243: so it is under `selectQuiet`, whatever the enables. -/
theorem quietWrites_of_selectQuiet {s : State} {c : Word} (h : selectQuiet s D c) (D' : LogicalDevice) :
    QuietWrites (withEnables s.bank.cs D') D.mode (chipIndex c) := by
  rcases h with hoff | ⟨hfield, hmode, hchip⟩
  · have hta := (withEnables_ta s.bank.cs D').trans hoff
    have hta' := (withoutMode_ta _).trans hta
    exact ⟨.inl hta, .inl hta', .inl ((withMode_ta _ _).trans hta')⟩
  · have hclear := withoutMode_of_field ((withEnables_extract (by decide) s.bank.cs D').trans hfield)
    have hindex := withChip_of_field ((withEnables_extract (by decide) s.bank.cs D').trans hchip)
    rw [hmode]
    exact ⟨.inr hclear, .inr (withMode_zero _), .inr (by rw [withMode_zero, hclear]; exact hindex)⟩

/-! ### What the values show, written to CS -/

theorem Shows.withoutMode (h : Shows w x) : Shows (withoutMode w) (withoutMode x) := h.and _

theorem Shows.withMode (h : Shows w x) (m : BitVec 2) : Shows (withMode w m) (withMode x m) :=
  h.or (by revert m; decide)

theorem Shows.withChip (h : Shows w x) (c : BitVec 2) : Shows (withChip w c) (withChip x c) :=
  (h.and _).or (by revert c; decide)

theorem Shows.withEnables (h : Shows w x) (D : LogicalDevice) : Shows (withEnables w D) (withEnables x D) :=
  h.or (enableBits_and (by decide) D)

end Sys2Proof.Machine
end

/-! ## SELECT's lines (R240, R86) -/

section
namespace Sys2Proof.Machine

open Sys2Proof.Spec

variable {s u : State} {d : Nat} {c : BitVec 2} {D : LogicalDevice} {b : RegisterBank} {l : List Frame}
  {pos : SelectPos} {wpos : Word → SelectPos} {f : Word → Word} {k : State → StepResult} {w x : Word}

/-- R60: an event added to the history keeps it. -/
theorem mem_recorded {e : Event} {bk : Book} (h : e ∈ bk.events) (es : List Event) : e ∈ (recorded bk es).events :=
  List.mem_append_left es h

/-- R240: u is s with another bank, which holds stored fields only, another operation of the thread and another RDATA,
with a longer history and after some draws. -/
structure Configures (s : State) (b : RegisterBank) (l : List Frame) (u : State) : Prop where
  clean : b.cs &&& ~~~csStored = 0#32
  bank : u.bank = b
  eng : u.eng = s.eng
  seq : u.seq = { s.seq with thread := l }
  mem : u.mem = s.mem
  cfg : u.cfg = s.cfg
  host : u.host = withRdata s.host u.host.rdata
  inputs : sameInputs u.env s.env
  history : ∀ e ∈ s.book.events, e ∈ u.book.events

theorem Configures.start (h : csClean s) (l : List Frame) : Configures s s.bank l (s.withThread l) :=
  ⟨storedOnly_of_csClean h, rfl, rfl, rfl, rfl, rfl, rfl, ⟨rfl, rfl⟩, fun _ => id⟩

namespace Configures

theorem csClean (h : Configures s b l u) : Spec.csClean u := by
  rw [Spec.csClean, h.bank, rwBits, ← csStored_eq]
  exact h.clean

theorem dev? (h : Configures s b l u) (hdev : s.dev? d = some D) : u.dev? d = some D := by
  rw [← hdev, State.dev?, State.dev?, h.seq]

theorem thread (h : Configures s b l u) : u.seq.thread = l := by rw [h.seq]

theorem ctx (h : Configures s b l u) (hc : s.seq.ctx = .thread) : u.seq.ctx = .thread := by rw [h.seq, hc]

/-- R140: a CS read. -/
theorem read (h : Configures s b l u) (l' : List Frame) : Configures s b l' (u.readCs.withThread l') where
  clean := h.clean
  bank := h.bank
  eng := h.eng
  seq := congrArg (fun q : Sequencer => { q with thread := l' }) h.seq
  mem := h.mem
  cfg := h.cfg
  host := by
    rw [State.withThread_host, State.readCs_host, h.host]
    rfl
  inputs := h.inputs
  history e he := mem_recorded (h.history e he) _

/-- R141: a CS write of a word that shows x. -/
theorem wrote (h : Configures s b l u) (hw : Shows w x) (l' : List Frame) :
    Configures s { b with cs := x } l' ((u.wroteCs x w).withThread l') where
  clean := hw.clean
  bank := congrArg (fun b : RegisterBank => { b with cs := x }) h.bank
  eng := h.eng
  seq := congrArg (fun q : Sequencer => { q with thread := l' }) h.seq
  mem := h.mem
  cfg := h.cfg
  host := h.host
  inputs := h.inputs
  history e he := mem_recorded (h.history e he) _

/-- R244: the divisor's write. -/
theorem wroteClk (h : Configures s b l u) (v : Half) (l' : List Frame) :
    Configures s { b with cdiv := v } l' ((u.writeClk (zextHalf v)).withThread l') := by
  rw [State.writeClk_zextHalf]
  exact
    { clean := h.clean
      bank := congrArg (fun b : RegisterBank => { b with cdiv := v }) h.bank
      eng := h.eng
      seq := congrArg (fun q : Sequencer => { q with thread := l' }) h.seq
      mem := h.mem
      cfg := h.cfg
      host := h.host
      inputs := h.inputs
      history := fun e he => mem_recorded (h.history e he) _ }

/-- R320: the program has its result. -/
theorem endCommand (h : Configures s b l u) (r : OpResult) :
    Configures { s with host := ended s.host r } b l (u.endCommand r) where
  clean := h.clean
  bank := h.bank
  eng := h.eng
  seq := h.seq
  mem := h.mem
  cfg := h.cfg
  host := by
    change ended u.host r = withRdata (ended s.host r) u.host.rdata
    rw [h.host]
    rfl
  inputs := h.inputs
  history := h.history

end Configures

/-- SELECT stands, in u, at a line that writes CS by a word which shows it. -/
def Stands (s : State) (d : Nat) (c : BitVec 2) (b : RegisterBank) (wpos : Word → SelectPos) (u : State) : Prop :=
  ∃ w, Shows w b.cs ∧ Configures s b [.selectF d c (wpos w)] u

/-- R86: the first half of a read-modify-write. -/
theorem Configures.reads (h : Configures s b [.selectF d c pos] u) (hc : s.seq.ctx = .thread)
    (hadv : advance (.selectF d c pos) u = .next (u.readCs.moveTo (.selectF d c (wpos u.csRdata)))) :
    ∃ t, hostStep u = .next t ∧ Stands s d c b wpos t :=
  ⟨_, hostStep_moves (h.ctx hc) h.thread hadv, u.csRdata, h.bank ▸ csRdata_shows h.csClean, h.read _⟩

namespace Stands

theorem bank (h : Stands s d c b wpos u) : u.bank = b := by
  obtain ⟨w, -, hu⟩ := h
  exact hu.bank

theorem dev? (h : Stands s d c b wpos u) (hdev : s.dev? d = some D) : u.dev? d = some D := by
  obtain ⟨w, -, hu⟩ := h
  exact hu.dev? hdev

/-- R143: a write that SELECT stands at meets no condition with TA = 0, or where it stores what is there. -/
theorem storable (h : Stands s d c b wpos u) (hq : b.cs.getLsbD 7 = false ∨ x = b.cs) : Storable u x :=
  Storable.of_quiet (h.bank ▸ hq)

/-- R86: the second half of a read-modify-write. -/
theorem writes (h : Stands s d c b wpos u) (hc : s.seq.ctx = .thread) (hf : ∀ {w x}, Shows w x → Shows (f w) (f x))
    (hok : Storable u (f b.cs))
    (hadv : ∀ w, advance (.selectF d c (wpos w)) u =
      andThen (u.writeCs (f w)) fun s => .next (s.moveTo (.selectF d c pos))) :
    ∃ t, hostStep u = .next t ∧ Configures s { b with cs := f b.cs } [.selectF d c pos] t := by
  obtain ⟨w, hw, hu⟩ := h
  exact ⟨_, hostStep_moves (hu.ctx hc) hu.thread ((hadv w).trans (andThen_of_next ((hf hw).writeCs hok))),
    hu.wrote (hf hw) _⟩

/-- R143: the write that changes a configuration field while TA = 1. -/
theorem faults (h : Stands s d c b wpos u) (hc : s.seq.ctx = .thread) (hf : ∀ {w x}, Shows w x → Shows (f w) (f x))
    (hta : b.cs.getLsbD 7 = true) (hkeep : (f b.cs).getLsbD 7 = true)
    (hchange : f b.cs &&& csConfig ≠ b.cs &&& csConfig)
    (hadv : ∀ w, advance (.selectF d c (wpos w)) u = andThen (u.writeCs (f w)) k) :
    ∃ w, hostStep u = .fault (.configActive b.cs w) ∧ w &&& rwBits = f b.cs := by
  obtain ⟨w, hw, hu⟩ := h
  refine ⟨f w, ?_, (csStored_eq ▸ (hf hw).stored :)⟩
  have hfault := (hf hw).writeCs_faults (hu.bank ▸ hta) hkeep (hu.bank ▸ hchange)
  exact hu.bank ▸ hostStep_thread (hu.ctx hc) hu.thread ((hadv w).trans (andThen_of_fault hfault))

variable (hc : s.seq.ctx = .thread) (hdev : s.dev? d = some D)
include hc hdev

/-- R242: the mode clear, and the CS read of the mode set. -/
theorem clearsMode (h : Stands s d c b .modeClear u) (hok : Storable u (withoutMode b.cs)) :
    ∃ t, hostRun 2 u = .next t ∧ Stands s d c { b with cs := withoutMode b.cs } .modeSet t := by
  obtain ⟨t, hstep, ht⟩ := h.writes (pos := .modeSetRead) hc Shows.withoutMode hok fun w => by
    simp only [advance, selectAdvance, h.dev? hdev]
  obtain ⟨t', hstep', ht'⟩ := ht.reads (wpos := .modeSet) hc (by simp only [advance, selectAdvance, ht.dev? hdev])
  exact ⟨t', hostRun_step hstep (hostRun_one hstep'), ht'⟩

/-- R242, R244: the mode set, the divisor's write where there is a divisor, and the CS read of the chip select. -/
theorem setsMode (h : Stands s d c b .modeSet u) (hok : Storable u (withMode b.cs D.mode)) :
    ∃ t, hostRun (if D.divisor = 0#16 then 2 else 3) u = .next t ∧
      Stands s d c
        { b with
          cs := withMode b.cs D.mode
          cdiv := if D.divisor = 0#16 then b.cdiv else D.divisor } .chipWrite t := by
  obtain ⟨t, hstep, ht⟩ := h.writes (pos := if D.divisor = 0#16 then .chipRead else .divisor) hc
    (Shows.withMode · D.mode) hok fun w => by simp only [advance, selectAdvance, h.dev? hdev]
  by_cases hdiv : D.divisor = 0#16
  · simp only [if_pos hdiv] at ht ⊢
    obtain ⟨t', hstep', ht'⟩ := ht.reads (wpos := .chipWrite) hc (by
      simp only [advance, selectAdvance, ht.dev? hdev])
    exact ⟨t', hostRun_step hstep (hostRun_one hstep'), ht'⟩
  · simp only [if_neg hdiv] at ht ⊢
    have hclk := ht.wroteClk D.divisor [.selectF d c .chipRead]
    obtain ⟨t', hstep', ht'⟩ := hclk.reads (wpos := .chipWrite) hc (by
      simp only [advance, selectAdvance, hclk.dev? hdev])
    have hdivisor := hostStep_moves (u := t.writeClk (zextHalf D.divisor)) (f' := .selectF d c .chipRead) (ht.ctx hc)
      ht.thread (by simp only [advance, selectAdvance, ht.dev? hdev])
    exact ⟨t', hostRun_step hstep (hostRun_step hdivisor (hostRun_one hstep')), ht'⟩

/-- R245: the chip select write, and the return. -/
theorem setsChip (h : Stands s d c b .chipWrite u) (hok : Storable u (withChip b.cs c)) :
    ∃ t, hostRun 1 u = .next t ∧
      Configures { s with host := ended s.host .success } { b with cs := withChip b.cs c } [] t := by
  have hdevu := h.dev? hdev
  obtain ⟨w, hw, hu⟩ := h
  have hstep := hostStep_ends (hu.ctx hc) hu.thread (r := .success) (ht := rfl) (by
    simp only [advance, selectAdvance, hdevu]
    exact andThen_of_next ((hw.withChip c).writeCs hok))
  exact ⟨_, hostRun_one hstep, (hu.wrote (hw.withChip c) []).endCommand _⟩

/-- R240, R242 to R245: SELECT from its mode clear to its end, where no write meets a fault condition. -/
theorem configures (h : Stands s d c b .modeClear u) (hq : QuietWrites b.cs D.mode c) :
    ∃ t, hostRun (if D.divisor = 0#16 then 5 else 6) u = .next t ∧
      Configures { s with host := ended s.host .success }
        { b with
          cs := configuredCs b.cs D.mode c
          cdiv := if D.divisor = 0#16 then b.cdiv else D.divisor } [] t := by
  obtain ⟨t, hrun, ht⟩ := h.clearsMode hc hdev (h.storable hq.clear)
  obtain ⟨t', hrun', ht'⟩ := ht.setsMode hc hdev (ht.storable hq.set)
  obtain ⟨t'', hrun'', ht''⟩ := ht'.setsChip hc hdev (ht'.storable hq.chip)
  have hcount : (if D.divisor = 0#16 then 5 else 6) = 1 + (if D.divisor = 0#16 then 2 else 3) + 2 := by
    split <;> rfl
  rw [← withChip_withMode_withoutMode, hcount]
  exact ⟨t'', hostRun_trans hrun (hostRun_trans hrun' hrun''), ht''⟩

end Stands

/-! ### The lines before the mode clear (R243, R246, R248) -/

section
variable (hc : s.seq.ctx = .thread) (hdev : s.dev? d = some D)
include hc hdev

/-- R242: the CS read of the mode clear. -/
theorem Configures.readsMode (h : Configures s b [.selectF d c .modeRead] u) :
    ∃ t, hostRun 1 u = .next t ∧ Stands s d c b .modeClear t := by
  obtain ⟨t, hstep, ht⟩ := h.reads (wpos := .modeClear) hc (by simp only [advance, selectAdvance, h.dev? hdev])
  exact ⟨t, hostRun_one hstep, ht⟩

/-- R243: the read-modify-write of the enables. -/
theorem Configures.enables (h : Configures s b [.selectF d c .enableRead] u) :
    ∃ t, hostRun 3 u = .next t ∧ Stands s d c { b with cs := withEnables b.cs D } .modeClear t := by
  obtain ⟨t, hstep, ht⟩ := h.reads (wpos := .enableWrite) hc (by simp only [advance, selectAdvance, h.dev? hdev])
  obtain ⟨t', hstep', ht'⟩ := ht.writes (pos := .modeRead) hc (Shows.withEnables · D)
    (ht.bank ▸ Storable.or t (enableBits_and (by decide) D)) fun w => by
      simp only [advance, selectAdvance, ht.dev? hdev]
  obtain ⟨t'', hrun, ht''⟩ := ht'.readsMode hc hdev
  exact ⟨t'', hostRun_step hstep (hostRun_step hstep' hrun), ht''⟩

end

end Sys2Proof.Machine
end

/-! ## SELECT (R240 to R248) -/

section
namespace Sys2Proof.Machine

open Sys2Proof.Spec

variable {s : State} {d : Nat} {c : Word} {D : LogicalDevice}

/-! ### Its first step -/

theorem chipSelectValid_iff (c : Word) : chipSelectValid c = true ↔ 0 ≤ c.toInt ∧ c.toInt ≤ 3 := by
  rw [chipSelectValid, decide_eq_true_iff, BitVec.toInt_eq_toNat_cond]
  have := c.isLt
  split <;> omega

/-- R240: an interrupt device: the CS read that decides whether the line is attached. -/
theorem exec_select_of_wantsIrq (hi : idle s) (hdev : s.dev? d = some D) (hc : chipSelectValid c = true)
    (hirq : D.wantsIrq = true) :
    exec (.select d c) s =
      .next (s.readCs.withThread [.selectF d (chipIndex c) (selectAfterRead s.csRdata)]) := by
  rw [exec, execSelect, hdev]
  simp only [hc, hirq, Bool.not_true, Bool.false_eq_true, if_false, if_true]
  rw [State.push_of_idle (s := s.readCs) hi]

/-- R243: a device that requests no interrupt, the line attached: the detach. -/
theorem exec_select_of_attached (hi : idle s) (hdev : s.dev? d = some D) (hc : chipSelectValid c = true)
    (hirq : D.wantsIrq = false) (hattached : s.seq.irqAttached = true) :
    exec (.select d c) s = .next (s.detachLine.withThread [.selectF d (chipIndex c) .modeRead]) := by
  rw [exec, execSelect, hdev]
  simp only [hc, hirq, hattached, Bool.not_true, Bool.false_eq_true, if_false, if_true]
  rw [State.push_of_idle (s := s.detachLine) hi]

/-- R242: a device that requests no interrupt, the line not attached: the CS read of the mode clear. -/
theorem exec_select_of_detached (hi : idle s) (hdev : s.dev? d = some D) (hc : chipSelectValid c = true)
    (hirq : D.wantsIrq = false) (hdetached : s.seq.irqAttached = false) :
    exec (.select d c) s = .next (s.readCs.withThread [.selectF d (chipIndex c) (.modeClear s.csRdata)]) := by
  rw [exec, execSelect, hdev]
  simp only [hc, hirq, hdetached, Bool.not_true, Bool.false_eq_true, if_false]
  rw [State.push_of_idle (s := s.readCs) hi]

/-- R243: the CS read shows INTD and INTR. -/
theorem selectAfterRead_csRdata (s : State) :
    selectAfterRead s.csRdata = if s.bank.cs.getLsbD 9 || s.bank.cs.getLsbD 10 then .enableRead else .attach := by
  rw [selectAfterRead, has_INTD, has_INTR, csRdata_stored_bit s (by decide), csRdata_stored_bit s (by decide)]
  cases s.bank.cs.getLsbD 9 <;> cases s.bank.cs.getLsbD 10 <;> rfl

/-- Settles O27: the first step gives the program the result. -/
theorem selectRejectsInvalidChipSelect : Obligations.SelectRejectsInvalidChipSelect := by
  intro s d D c hi hdev hrange
  have hinvalid : chipSelectValid c = false := Bool.not_eq_true _ ▸ (chipSelectValid_iff c).not.mpr hrange
  rw [exec, execSelect, hdev]
  simp only [hinvalid, Bool.not_false, if_true]
  rw [State.deliver_program hi.1 (stack_of_idle hi)]
  rfl

/-! ### Its lines up to the mode clear -/

/-- R242: without an interrupt and with the line not attached SELECT stands at its mode clear at once. -/
theorem stands_of_detached (hclean : csClean s) :
    Stands s d (chipIndex c) s.bank .modeClear
      (s.readCs.withThread [.selectF d (chipIndex c) (.modeClear s.csRdata)]) :=
  ⟨s.csRdata, csRdata_shows hclean, (Configures.start hclean []).read _⟩

/-- R243: after the detach it goes there by one CS read. -/
theorem stands_of_attached (hi : idle s) (hclean : csClean s) (hdev : s.dev? d = some D) :
    ∃ u, hostRun 1 (s.detachLine.withThread [.selectF d (chipIndex c) .modeRead]) = .next u ∧
      Stands s.detachLine d (chipIndex c) s.bank .modeClear u :=
  (Configures.start (s := s.detachLine) hclean _).readsMode (s := s.detachLine) hi.1 hdev

/-- R243, R248: an interrupt device with an enable set already goes there by the read-modify-write of the enables. -/
theorem stands_of_enabled (hi : idle s) (hclean : csClean s) (hdev : s.dev? d = some D) :
    ∃ u, hostRun 3 (s.readCs.withThread [.selectF d (chipIndex c) .enableRead]) = .next u ∧
      Stands s d (chipIndex c) { s.bank with cs := withEnables s.bank.cs D } .modeClear u :=
  ((Configures.start hclean []).read _).enables hi.1 hdev

/-- R243, R246: with none set it first attaches the line, when the collaborator agrees. -/
theorem stands_of_attach (hi : idle s) (hclean : csClean s) (hdev : s.dev? d = some D)
    (hok : (s.readCs.withThread [.selectF d (chipIndex c) .attach]).attachOk = true) :
    ∃ u, hostRun 4 (s.readCs.withThread [.selectF d (chipIndex c) .attach]) = .next u ∧
      Stands (s.attachLine d) d (chipIndex c) { s.bank with cs := withEnables s.bank.cs D } .modeClear u := by
  let t := s.readCs.withThread [.selectF d (chipIndex c) .attach]
  have hattach : hostStep t = .next ((t.drawn.attachLine d).withThread [.selectF d (chipIndex c) .enableRead]) :=
    hostStep_moves (u := t.drawn.attachLine d) hi.1 rfl (by
      have hdevt : t.dev? d = some D := hdev
      simp only [advance, selectAdvance, hdevt]
      exact if_pos hok)
  have hframe : Configures (s.attachLine d) s.bank [.selectF d (chipIndex c) .enableRead]
      ((t.drawn.attachLine d).withThread [.selectF d (chipIndex c) .enableRead]) :=
    { clean := storedOnly_of_csClean hclean
      bank := rfl
      eng := rfl
      seq := rfl
      mem := rfl
      cfg := rfl
      host := rfl
      inputs := ⟨rfl, rfl⟩
      history := fun e he => by
        have hmem : e ∈ (s.book.events ++ [csReadEv s.csRdata]) ++ [.attach s.cfg.irqLine d] := by
          simp only [State.attachLine, State.log, List.mem_append] at he ⊢
          tauto
        exact hmem }
  obtain ⟨u, hrun, hu⟩ := hframe.enables (s := s.attachLine d) hi.1 hdev
  exact ⟨u, hostRun_step hattach hrun, hu⟩

/-! ### To its end -/

/-- Where nothing runs, the thread's operations are none. -/
theorem seq_of_idle (hi : idle s) : { s.seq with thread := [] } = s.seq :=
  congrArg State.seq (State.withThread_of_idle hi)

/-- Settles O28: SELECT stands at its mode clear after its first step. -/
theorem selectConfiguresAPlainDevice : Obligations.SelectConfiguresAPlainDevice := by
  intro s d D c hi hclean hdev hlo hhi hdone hrecv hdetached hq
  have hirq : D.wantsIrq = false := Bool.or_eq_false_iff.mpr ⟨hdone, hrecv⟩
  have hquiet := quietWrites_of_selectQuiet hq D
  rw [withEnables_of_plain _ hirq] at hquiet
  obtain ⟨u, hrun, hu⟩ := (stands_of_detached (c := c) hclean).configures hi.1 hdev hquiet
  exact ⟨_, u, exec_select_of_detached hi hdev ((chipSelectValid_iff c).mpr ⟨hlo, hhi⟩) hirq hdetached, hrun,
    hu.bank, hu.eng, hu.seq.trans (seq_of_idle hi), hu.mem, hu.cfg, hu.inputs, hu.host⟩

/-- Settles O30: after the detach one CS read leads to the mode clear. -/
theorem selectDetachesForAPlainDevice : Obligations.SelectDetachesForAPlainDevice := by
  intro s d D c hi hdev hlo hhi hdone hrecv hattached
  have hirq : D.wantsIrq = false := Bool.or_eq_false_iff.mpr ⟨hdone, hrecv⟩
  refine ⟨_, exec_select_of_attached hi hdev ((chipSelectValid_iff c).mpr ⟨hlo, hhi⟩) hirq hattached, rfl,
    fun hclean hq => ?_⟩
  have hquiet := quietWrites_of_selectQuiet hq D
  rw [withEnables_of_plain _ hirq] at hquiet
  obtain ⟨u, hrun, hu⟩ := stands_of_attached (c := c) hi hclean hdev
  obtain ⟨u', hrun', hu'⟩ := hu.configures (s := s.detachLine) hi.1 hdev hquiet
  have hcount : (if D.divisor = 0#16 then 6 else 7) = (if D.divisor = 0#16 then 5 else 6) + 1 := by split <;> rfl
  exact ⟨u', hcount ▸ hostRun_trans hrun hrun', hu'.bank, hu'.eng,
    hu'.seq.trans (seq_of_idle (s := s.detachLine) hi), hu'.mem, hu'.cfg, hu'.host⟩

/-- Settles O31: the step after the CS read is the attach; it ends SELECT when the collaborator refuses. -/
theorem selectAttachesOrReportsFailure : Obligations.SelectAttachesOrReportsFailure := by
  intro s d D c hi hclean hdev hlo hhi hirq hintd hintr
  have hfirst := exec_select_of_wantsIrq hi hdev ((chipSelectValid_iff c).mpr ⟨hlo, hhi⟩)
    ((Bool.or_eq_true _ _).mpr hirq)
  rw [selectAfterRead_csRdata, hintd, hintr] at hfirst
  refine ⟨_, hfirst, fun hrefused => ?_, fun hok hq => ?_⟩
  · let t := s.readCs.withThread [.selectF d (chipIndex c) .attach]
    have hend : hostStep t = .next ((t.drawn.withThread []).endCommand .irqAttachFailure) :=
      hostStep_ends (u := t.drawn) hi.1 rfl (by
        have hdevt : t.dev? d = some D := hdev
        simp only [advance, selectAdvance, hdevt]
        exact if_neg (ne_true_of_eq_false hrefused))
    exact ⟨s.csRdata, _, hostRun_one hend, rfl, rfl, seq_of_idle hi, rfl, rfl, rfl,
      rfl⟩
  · obtain ⟨u, hrun, hu⟩ := stands_of_attach hi hclean hdev hok
    obtain ⟨u', hrun', hu'⟩ := hu.configures (s := s.attachLine d) hi.1 hdev (quietWrites_of_selectQuiet hq D)
    have hcount : (if D.divisor = 0#16 then 9 else 10) = (if D.divisor = 0#16 then 5 else 6) + 4 := by split <;> rfl
    rw [← withEnables_eq]
    exact ⟨u', hcount ▸ hostRun_trans hrun hrun', hu'.bank,
      hu'.seq.trans (seq_of_idle (s := s.attachLine d) hi), hu'.eng, hu'.mem, hu'.cfg,
      hu'.host, hu'.history _ (List.mem_append_right _ (List.mem_singleton.mpr rfl))⟩

/-- Settles O32: the CS read shows an enable, so the line after it is the enables' and not the attach. -/
theorem selectKeepsTheAttachedContext : Obligations.SelectKeepsTheAttachedContext := by
  intro s d D c hi hclean hdev hlo hhi hirq hon hq
  have hfirst := exec_select_of_wantsIrq hi hdev ((chipSelectValid_iff c).mpr ⟨hlo, hhi⟩)
    ((Bool.or_eq_true _ _).mpr hirq)
  rw [selectAfterRead_csRdata, if_pos ((Bool.or_eq_true _ _).mpr hon)] at hfirst
  obtain ⟨u, hrun, hu⟩ := stands_of_enabled (c := c) hi hclean hdev
  obtain ⟨u', hrun', hu'⟩ := hu.configures hi.1 hdev (quietWrites_of_selectQuiet hq D)
  have hcount : (if D.divisor = 0#16 then 8 else 9) = (if D.divisor = 0#16 then 5 else 6) + 3 := by split <;> rfl
  rw [← withEnables_eq]
  exact ⟨_, u', hfirst, hcount ▸ hostRun_trans hrun hrun', hu'.bank,
    hu'.seq.trans (seq_of_idle hi), hu'.eng, hu'.mem, hu'.cfg, hu'.host⟩

/-! ### While TA = 1 (R143) -/

section
variable {b : RegisterBank} {u : State} {i : BitVec 2} (hc : s.seq.ctx = .thread) (hdev : s.dev? d = some D)
  (hta : b.cs.getLsbD 7 = true)
include hc hdev hta

/-- R242: the mode clear faults where the mode field is not 0. -/
theorem Stands.clearMode_faults (h : Stands s d i b .modeClear u) (hfield : b.cs.extractLsb' 2 2 ≠ 0#2) :
    ∃ w, hostStep u = .fault (.configActive b.cs w) ∧ w &&& rwBits = b.cs &&& ~~~0x0000000C#32 := by
  have hchange : withoutMode b.cs &&& csConfig ≠ b.cs &&& csConfig := fun heq =>
    hfield ((field_of_config (k := 2) (by decide) heq).symm.trans (withoutMode_extract b.cs))
  exact h.faults hc Shows.withoutMode hta ((withoutMode_ta _).trans hta) hchange fun w => by
    simp only [advance, selectAdvance, h.dev? hdev]
    rfl

/-- R242: the mode set faults where the mode is not the 0 that the field holds. -/
theorem Stands.setMode_faults (h : Stands s d i b .modeSet u) (hfield : b.cs.extractLsb' 2 2 = 0#2)
    (hmode : D.mode ≠ 0#2) :
    ∃ w, hostStep u = .fault (.configActive b.cs w) ∧ w &&& rwBits = b.cs ||| (D.mode.setWidth 32 <<< 2) := by
  have hchange : withMode b.cs D.mode &&& csConfig ≠ b.cs &&& csConfig := fun heq => by
    have hset := field_of_config (k := 2) (by decide) heq
    rw [withMode_extract, hfield, BitVec.zero_or] at hset
    exact hmode hset
  rw [← modeBits_eq]
  exact h.faults hc (Shows.withMode · D.mode) hta ((withMode_ta _ _).trans hta) hchange fun w => by
    simp only [advance, selectAdvance, h.dev? hdev]
    rfl

/-- R245: the chip select write faults where the field is not the index. -/
theorem Stands.setChip_faults (h : Stands s d i b .chipWrite u) (hfield : b.cs.extractLsb' 0 2 ≠ i) :
    ∃ w, hostStep u = .fault (.configActive b.cs w) ∧
      w &&& rwBits = (b.cs &&& ~~~0x00000003#32) ||| i.setWidth 32 := by
  have hchange : withChip b.cs i &&& csConfig ≠ b.cs &&& csConfig := fun heq =>
    hfield ((field_of_config (k := 0) (by decide) heq).symm.trans (withChip_extract b.cs i))
  exact h.faults hc (Shows.withChip · i) hta ((withChip_ta _ _).trans hta) hchange fun w => by
    simp only [advance, selectAdvance, h.dev? hdev]
    rfl

omit hta in
/-- R242: with the mode field 0 SELECT comes to its mode set, and CS is as it was. -/
theorem Stands.reaches_setMode (h : Stands s d i b .modeClear u) (hfield : b.cs.extractLsb' 2 2 = 0#2) :
    ∃ t, hostRun 2 u = .next t ∧ Stands s d i b .modeSet t := by
  have hsame := withoutMode_of_field hfield
  have hnext := h.clearsMode hc hdev (h.storable (.inr hsame))
  rwa [hsame] at hnext

omit hta in
/-- R242, R244: with mode 0 too it comes to its chip select write, the divisor written. -/
theorem Stands.reaches_setChip (h : Stands s d i b .modeClear u) (hfield : b.cs.extractLsb' 2 2 = 0#2)
    (hmode : D.mode = 0#2) :
    ∃ t, hostRun (if D.divisor = 0#16 then 4 else 5) u = .next t ∧
      Stands s d i { b with cdiv := if D.divisor = 0#16 then b.cdiv else D.divisor } .chipWrite t := by
  have hsame : withMode b.cs D.mode = b.cs := by rw [hmode, withMode_zero]
  obtain ⟨t, hrun, ht⟩ := h.reaches_setMode hc hdev hfield
  obtain ⟨t', hrun', ht'⟩ := ht.setsMode hc hdev (ht.storable (.inr hsame))
  have hcount : (if D.divisor = 0#16 then 4 else 5) = (if D.divisor = 0#16 then 2 else 3) + 2 := by split <;> rfl
  rw [hsame] at ht'
  exact ⟨t', hcount ▸ hostRun_trans hrun hrun', ht'⟩

end

/-- R240, R243: SELECT's lines up to its mode clear, whatever the device requests and the line's attachment, an attach
succeeding. -/
theorem exec_select_reaches_modeClear (hi : idle s) (hclean : csClean s) (hdev : s.dev? d = some D)
    (hc : chipSelectValid c = true) :
    ∃ t, exec (.select d c) s = .next t ∧
      ((D.irqDone || D.irqRecv) = false ∨ (s.bank.cs.getLsbD 9 || s.bank.cs.getLsbD 10) = true ∨ t.attachOk = true →
        ∃ s' b u, s'.seq.ctx = .thread ∧ s'.dev? d = some D ∧ b = { s.bank with cs := withEnables s.bank.cs D } ∧
          hostRun (if D.irqDone || D.irqRecv then (if s.bank.cs.getLsbD 9 || s.bank.cs.getLsbD 10 then 3 else 4) else
            if s.seq.irqAttached then 1 else 0) t = .next u ∧
          Stands s' d (chipIndex c) b .modeClear u) := by
  cases hirq : D.irqDone || D.irqRecv with
  | false =>
    rw [withEnables_of_plain _ hirq]
    cases hattached : s.seq.irqAttached with
    | false =>
      exact ⟨_, exec_select_of_detached hi hdev hc hirq hattached, fun _ =>
        ⟨s, _, _, hi.1, hdev, rfl, rfl, stands_of_detached hclean⟩⟩
    | true =>
      obtain ⟨u, hu⟩ := stands_of_attached (c := c) hi hclean hdev
      exact ⟨_, exec_select_of_attached hi hdev hc hirq hattached, fun _ =>
        ⟨s.detachLine, _, u, hi.1, hdev, rfl, hu⟩⟩
  | true =>
    have hfirst := exec_select_of_wantsIrq hi hdev hc hirq
    rw [selectAfterRead_csRdata] at hfirst
    cases hon : s.bank.cs.getLsbD 9 || s.bank.cs.getLsbD 10 with
    | true =>
      rw [hon] at hfirst
      obtain ⟨u, hu⟩ := stands_of_enabled (c := c) hi hclean hdev
      exact ⟨_, hfirst, fun _ => ⟨s, _, u, hi.1, hdev, rfl, hu⟩⟩
    | false =>
      rw [hon] at hfirst
      refine ⟨_, hfirst, fun hok => ?_⟩
      have hattach := (hok.resolve_left Bool.noConfusion).resolve_left Bool.noConfusion
      obtain ⟨u, hu⟩ := stands_of_attach hi hclean hdev hattach
      exact ⟨s.attachLine d, _, u, hi.1, hdev, rfl, hu⟩

/-- Settles O29: from its mode clear SELECT goes on up to the first write that changes a field. -/
theorem selectWhileActiveFaults : Obligations.SelectWhileActiveFaults := by
  intro s d D c hi hclean hdev hlo hhi hta
  obtain ⟨t, hfirst, hreach⟩ :=
    exec_select_reaches_modeClear hi hclean hdev ((chipSelectValid_iff c).mpr ⟨hlo, hhi⟩)
  rw [← withEnables_eq, ← withEnables_extract (k := 2) (by decide) s.bank.cs D,
    ← withEnables_extract (k := 0) (by decide) s.bank.cs D]
  refine ⟨t, hfirst, fun hok => ?_⟩
  obtain ⟨s', b, u, hc, hdev', hb, hrun, hu⟩ := hreach hok
  have hcs : b.cs = withEnables s.bank.cs D := by rw [hb]
  have hcdiv : b.cdiv = s.bank.cdiv := by rw [hb]
  have hta' : b.cs.getLsbD 7 = true := by rw [hcs, withEnables_ta, hta]
  rw [← hcs, ← hcdiv]
  refine ⟨fun hfield => ?_, fun hfield hmode => ?_, fun hfield hmode hchip => ?_⟩
  · obtain ⟨w, hw⟩ := hu.clearMode_faults hc hdev' hta' hfield
    exact ⟨u, w, hrun, hw⟩
  · obtain ⟨u', hrun', hu'⟩ := hu.reaches_setMode hc hdev' hfield
    obtain ⟨w, hw⟩ := hu'.setMode_faults hc hdev' hta' hfield hmode
    refine ⟨u', w, ?_, hw⟩
    rw [Nat.add_comm]
    exact hostRun_trans hrun hrun'
  · obtain ⟨u', hrun', hu'⟩ := hu.reaches_setChip hc hdev' hfield hmode
    obtain ⟨w, hw⟩ := hu'.setChip_faults hc hdev' (by exact hta') hchip
    refine ⟨u', w, ?_, congrArg RegisterBank.cdiv hu'.bank, hw⟩
    rw [Nat.add_comm]
    exact hostRun_trans hrun hrun'

end Sys2Proof.Machine
end

/-! ## Runs of the HOST in interrupt context (R341) -/

section
namespace Sys2Proof.Machine

open Sys2Proof.Spec

variable {s u : State} {f f' : Frame} {l : List Frame}

/-- s with the handler's operations replaced. -/
def State.withIntr (s : State) (l : List Frame) : State := { s with seq.intr := l }

/-- With nothing running in interrupt context there is nothing to replace. -/
theorem State.withIntr_of_empty (hs : s.seq.intr = []) : s.withIntr [] = s := by
  rw [State.withIntr, ← hs]

/-- A line of the handler's innermost operation which moves its position, whatever stands below it. -/
theorem hostStep_moves_intr (hc : s.seq.ctx = .interrupt) (hs : s.seq.intr = f :: l)
    (h : advance f s = .next (u.moveTo f'))
    (hu : u.seq.ctx = s.seq.ctx ∧ u.seq.intr = s.seq.intr := by exact ⟨rfl, rfl⟩) :
    hostStep s = .next (u.withIntr (f' :: l)) := by
  have huc : u.seq.ctx = .interrupt := hu.1.trans hc
  have hstack : u.stack = f :: l := (State.stack_interrupt huc).trans (hu.2.trans hs)
  rw [hostStep_running ((State.stack_interrupt hc).trans hs), h, State.moveTo_eq_setStack hstack,
    State.setStack_interrupt huc, State.withIntr]

/-- R341: the end of the handler returns from the interrupt. -/
theorem State.finish_to_thread (hc : s.seq.ctx = .interrupt) (hs : s.seq.intr = [f]) (r : OpResult) :
    s.finish r = s.returnFromInterrupt := by
  have hstack : s.stack = [f] := (State.stack_interrupt hc).trans hs
  have hpop : s.pop = s.withIntr [] := by
    rw [State.pop, hstack, List.tail_cons, State.setStack_interrupt hc, State.withIntr]
  rw [State.finish, hpop, State.deliver_return (s := s.withIntr []) hc (State.stack_interrupt hc)]
  rfl

end Sys2Proof.Machine
end

/-! ## IRQ_HANDLER's lines (R280 to R287) -/

section
namespace Sys2Proof.Machine

open Sys2Proof.Spec

variable {s : State} {d : Nat} {D : LogicalDevice} {n w : Word} {pos : HandlerPos} {before : Int}

/-! ### Entry and the choice of branch -/

/-- R33: DONE as the statements spell it. -/
theorem State.done_iff (s : State) :
    s.done = true ↔ s.bank.cs.getLsbD 7 = true ∧ s.eng.txq = [] ∧ s.eng.busy = false := by
  simp [State.done_eq, and_assoc]

/-- R36: RXR as the statements spell it. -/
theorem State.rxr_iff (s : State) :
    s.rxr = true ↔ s.bank.cs.getLsbD 7 = true ∧ s.cfg.rxrThreshold ≤ s.eng.rxq.length := by
  simp [State.rxr_eq]

/-- R280, R286: the branch over the flags that the CS read at entry shows. DONE implies TA (R33). -/
theorem handlerDecide_csRdata (hclean : csClean s) (D : LogicalDevice) :
    handlerDecide s.csRdata s.cfg D =
      if s.done = true ∧ 0 < D.remaining then .chunkA (chunkCount D s.cfg.txLowWater)
      else if s.rxr = true then .chunkB (chunkCount D s.cfg.rxHighWater) D.remaining
      else .ret := by
  have hcs := storedOnly_of_csClean hclean
  have hta : (s.done && s.bank.cs.getLsbD 7) = s.done := by
    rw [State.done_eq]
    cases s.bank.cs.getLsbD 7 <;> simp
  rw [handlerDecide, has_DONE, has_TA, has_RXR, csRdata_done hcs, csRdata_rxr hcs,
    csRdata_stored_bit s (by decide), hta]
  simp only [Bool.and_eq_true, decide_eq_true_eq]

/-- R282, R286: DONE with bytes remaining comes first. -/
theorem handlerDecide_of_done (hclean : csClean s) (hdone : s.done = true) (hrem : 0 < D.remaining) :
    handlerDecide s.csRdata s.cfg D = .chunkA (chunkCount D s.cfg.txLowWater) := by
  rw [handlerDecide_csRdata hclean, if_pos ⟨hdone, hrem⟩]

/-- R280: IRQ_HANDLER's first step. -/
theorem exec_irqHandler_of_dev (hc : s.seq.ctx = .interrupt) (hs : s.seq.intr = []) (hctx : s.seq.irqCtx = some d)
    (hdev : s.dev? d = some D) :
    exec .irqHandler s = .next (s.readCs.withIntr [.handlerF d (handlerDecide s.csRdata s.cfg D)]) := by
  have hstack : s.readCs.stack = [] := (State.stack_interrupt hc).trans hs
  rw [exec, execIrqHandler, hc, hs, hctx]
  simp only [hdev]
  rw [State.push, hstack, State.setStack_interrupt (s := s.readCs) hc, State.withIntr]

/-! ### The lines that end it -/

/-- R341: a line at which the handler ends returns from the interrupt. -/
theorem hostStep_returns (hc : s.seq.ctx = .interrupt) (hs : s.seq.intr = [.handlerF d pos])
    (h : handlerAdvance d pos s = .next (s.finish .handled)) : hostStep s = .next s.returnFromInterrupt := by
  rw [hostStep_running ((State.stack_interrupt hc).trans hs), advance, h, State.finish_to_thread hc hs]

/-- The handler's last line. -/
theorem hostStep_handlerRet (hc : s.seq.ctx = .interrupt) (hs : s.seq.intr = [.handlerF d .ret])
    (hdev : s.dev? d = some D) : hostStep s = .next s.returnFromInterrupt :=
  hostStep_returns hc hs (by rw [handlerAdvance, hdev])

/-- R283: after a branch-A chunk with bytes remaining it returns. -/
theorem hostStep_afterA_remaining (hc : s.seq.ctx = .interrupt) (hs : s.seq.intr = [.handlerF d .afterA])
    (hdev : s.dev? d = some D) (hrem : D.remaining ≠ 0) : hostStep s = .next s.returnFromInterrupt := by
  refine hostStep_returns hc hs ?_
  rw [handlerAdvance, hdev]
  exact if_neg hrem

/-- R285: after a branch-B chunk that received nothing for an output buffer it returns. -/
theorem hostStep_afterB_quiet (hc : s.seq.ctx = .interrupt) (hs : s.seq.intr = [.handlerF d (.afterB before)])
    (hdev : s.dev? d = some D) (hno : ¬ (D.dst.isSome = true ∧ D.remaining < before)) :
    hostStep s = .next s.returnFromInterrupt := by
  refine hostStep_returns hc hs ?_
  rw [handlerAdvance, hdev]
  refine if_neg fun h => hno ?_
  simpa [Int.sub_pos] using h

/-! ### The lines of a completion -/

/-- R283: after a branch-A chunk with nothing remaining it reads CS. -/
theorem hostStep_afterA_done (hc : s.seq.ctx = .interrupt) (hs : s.seq.intr = [.handlerF d .afterA])
    (hdev : s.dev? d = some D) (hrem : D.remaining = 0) :
    hostStep s = .next (s.readCs.withIntr [.handlerF d (.clearTa s.csRdata)]) := by
  refine hostStep_moves_intr hc hs ?_
  rw [advance, handlerAdvance, hdev]
  exact if_pos hrem

/-- R283: it writes the value back with TA cleared. -/
theorem hostStep_clearTa (hc : s.seq.ctx = .interrupt) (hs : s.seq.intr = [.handlerF d (.clearTa w)])
    (hdev : s.dev? d = some D) (hw : Shows w s.bank.cs) (hmid : ¬ midByte s) :
    hostStep s =
      .next ((s.wroteCs (s.bank.cs &&& ~~~0x80#32) (w &&& ~~~0x80#32)).withIntr [.handlerF d .callbackA]) := by
  refine hostStep_moves_intr hc hs ?_
  rw [advance, handlerAdvance, hdev]
  exact andThen_of_next ((hw.and (~~~0x80#32)).writeCs (Storable.clearTa hmid))

/-- R283, R285: a line that calls back is the callback's event, and the handler's last line follows. -/
theorem hostStep_callsBack (hc : s.seq.ctx = .interrupt) (hs : s.seq.intr = [.handlerF d pos])
    (hdev : s.dev? d = some D)
    (hpos : pos = .callbackA ∨ (pos = .afterB before ∧ D.dst.isSome = true ∧ D.remaining < before)) :
    hostStep s = .next ((s.log (.callback .onSendComplete d)).withIntr [.handlerF d .ret]) := by
  refine hostStep_moves_intr hc hs ?_
  rcases hpos with rfl | ⟨rfl, hdst, hrem⟩
  · rw [advance, handlerAdvance, hdev]
  · rw [advance, handlerAdvance, hdev]
    refine if_pos ?_
    simpa [Int.sub_pos] using And.intro hdst hrem

/-! ### What it answers as a whole -/

/-- Settles O49: with neither flag of a branch the entry's choice is the handler's last line. -/
theorem handlerWithoutCauseReturns : Obligations.HandlerWithoutCauseReturns := by
  intro s d D hclean hc hs hctx hdev hA hB
  have hnoA : ¬ (s.done = true ∧ 0 < D.remaining) := fun ⟨hdone, hrem⟩ => by
    obtain ⟨hta, htx, hbusy⟩ := s.done_iff.mp hdone
    exact hA ⟨hta, htx, hbusy, hrem⟩
  have hret : handlerDecide s.csRdata s.cfg D = .ret := by
    rw [handlerDecide_csRdata hclean, if_neg hnoA, if_neg (s.rxr_iff.not.mpr hB)]
  let t := s.readCs.withIntr [.handlerF d .ret]
  have hreturn : t.returnFromInterrupt = { s.readCs with seq := { s.seq with ctx := .thread, ie := true } } := by
    rw [← State.withIntr_of_empty hs]
    rfl
  have hfirst : exec .irqHandler s = .next t := by rw [exec_irqHandler_of_dev hc hs hctx hdev, hret]
  refine ⟨t, s.csRdata, s.drawn.env, hfirst, s.drawn_sameInputs, ?_⟩
  rw [hostRun_one (hostStep_handlerRet (s := t) hc rfl hdev), hreturn]
  rfl

/-- Settles O51: the four lines of a completion, and the one that returns with bytes remaining. -/
theorem handlerCompletionClearsTaAndCallsBack : Obligations.HandlerCompletionClearsTaAndCallsBack := by
  intro s d D hclean hc hs hdev
  refine ⟨fun hrem hmid => ⟨s.csRdata, s.drawn.env, ?_⟩, fun hrem => ?_⟩
  · simp only [recorded_cons_cons]
    refine hostRun_step (hostStep_afterA_done hc hs hdev hrem) ?_
    refine hostRun_step (hostStep_clearTa (s := s.readCs.withIntr _) hc rfl hdev (csRdata_shows hclean) hmid) ?_
    refine hostRun_two (hostStep_callsBack (before := 0) hc rfl hdev (.inl rfl)) ?_
    exact hostStep_handlerRet hc rfl hdev
  · exact hostRun_one (hostStep_afterA_remaining hc hs hdev hrem)

/-- Settles O52: the condition of the callback is the handler's own. -/
theorem handlerReceiveBranchCallsSendComplete : Obligations.HandlerReceiveBranchCallsSendComplete := by
  intro s d D before hc hs hdev
  refine ⟨fun hdst hrem => ?_, fun hno => hostRun_one (hostStep_afterB_quiet hc hs hdev ?_)⟩
  · have hcalls := hostStep_callsBack hc hs hdev (.inr ⟨rfl, Option.isSome_iff_ne_none.mpr hdst, hrem⟩)
    exact hostRun_two hcalls (hostStep_handlerRet hc rfl hdev)
  · rintro ⟨hdst, hrem⟩
    exact hno.elim (Option.isSome_iff_ne_none.mp hdst) (Int.not_le.mpr hrem)

end Sys2Proof.Machine
end

/-! ## IRQ_HANDLER's chunks (R282, R284, R266) -/

section
namespace Sys2Proof.Machine

open Sys2Proof.Spec

variable {s : State} {d : Nat} {D : LogicalDevice} {src dst : Option Nat} {n : Word} {l : List Frame}

/-- R282, R284: the chunk's count operand is the smaller of the remaining count and the bound. -/
theorem chunkCount_toInt (hrange : inInt32 D.remaining = true) (hnonneg : 0 ≤ D.remaining) (bound : Nat) :
    (chunkCount D bound).toInt = min D.remaining bound := by
  simp only [inInt32, Bool.and_eq_true, decide_eq_true_eq] at hrange
  have hmin : 0 ≤ min D.remaining bound := le_min hnonneg (Int.natCast_nonneg bound)
  have hle : min D.remaining bound ≤ D.remaining := min_le_left _ _
  exact BitVec.toInt_ofInt_eq_self (by decide) (by omega) (by omega)

theorem chunkCount_nonneg (hrange : inInt32 D.remaining = true) (hnonneg : 0 ≤ D.remaining) (bound : Nat) :
    0 ≤ (chunkCount D bound).toInt := by
  rw [chunkCount_toInt hrange hnonneg]
  exact le_min hnonneg (Int.natCast_nonneg bound)

/-- R280, R264, R266: at its chunk the handler issues the re-entrant TRANSFER from the device's cursors, which reads CS
and stands at its PUMP. -/
theorem hostStep_startsChunk {pos : HandlerPos} (hc : s.seq.ctx = .interrupt) (hs : s.seq.intr = [.handlerF d pos])
    (hpos : pos = .chunkA n ∨ ∃ before, pos = .chunkB n before) (hdev : s.dev? d = some D)
    (hdma : s.bank.cs.getLsbD 8 = false) (hn : 0 ≤ n.toInt) (hirq : D.wantsIrq = true) :
    hostStep s = .next (s.readCs.withIntr [.transferF d D.src D.dst n .chunkPump, .handlerF d pos]) := by
  have hstack : s.readCs.stack = [.handlerF d pos] := (State.stack_interrupt hc).trans hs
  have hissues : advance (.handlerF d pos) s = execTransfer d D.src D.dst n s := by
    rw [advance, handlerAdvance, hdev]
    rcases hpos with rfl | ⟨before, rfl⟩ <;> rfl
  rw [hostStep_running (s := s) hstack, hissues, execTransfer, hdev]
  simp only [transferDecide_nonneg ((csRdata_dmaen s).trans hdma) hn hirq]
  rw [State.push, hstack, State.setStack_interrupt (s := s.readCs) hc, State.withIntr]
  rfl

/-- R280, R266: the handler's entry, when its choice is a chunk, up to the PUMP of that chunk: nothing but the positions,
RDATA, the history and the draws has changed. -/
theorem handler_reaches_chunkPump {pos : HandlerPos} (hc : s.seq.ctx = .interrupt) (hs : s.seq.intr = [])
    (hctx : s.seq.irqCtx = some d) (hdev : s.dev? d = some D) (hdma : s.bank.cs.getLsbD 8 = false)
    (hdecide : handlerDecide s.csRdata s.cfg D = pos) (hpos : pos = .chunkA n ∨ ∃ before, pos = .chunkB n before)
    (hn : 0 ≤ n.toInt) (hirq : D.wantsIrq = true) :
    ∃ t host book env, exec .irqHandler s = .next t ∧
      hostStep t = .next { s with
        seq.intr := [.transferF d D.src D.dst n .chunkPump, .handlerF d pos]
        host := host, book := book, env := env } := by
  let t := s.readCs.withIntr [.handlerF d pos]
  have hfirst : exec .irqHandler s = .next t := by rw [exec_irqHandler_of_dev hc hs hctx hdev, hdecide]
  exact ⟨t, _, _, _, hfirst, hostStep_startsChunk (s := t) hc rfl hpos hdev hdma hn hirq⟩

/-- Settles O50: the flags at entry choose the branch, and the chunk's TRANSFER is re-entrant. -/
theorem handlerBranchesStartAChunk : Obligations.HandlerBranchesStartAChunk := by
  intro s d D hclean hc hs hctx hdev hirq hrange hdma hta
  have hwants : D.wantsIrq = true := (Bool.or_eq_true _ _).mpr hirq
  refine ⟨fun htx hbusy hrem => ?_, fun hnoA hrxr hnonneg => ?_⟩
  · have hdecide := handlerDecide_of_done hclean (s.done_iff.mpr ⟨hta, htx, hbusy⟩) hrem
    obtain ⟨t, _, _, _, hfirst, hchunk⟩ := handler_reaches_chunkPump hc hs hctx hdev hdma hdecide (.inl rfl)
      (chunkCount_nonneg hrange hrem.le _) hwants
    exact ⟨t, _, _, hfirst, hostRun_one hchunk, chunkCount_toInt hrange hrem.le _, rfl, rfl, rfl, rfl⟩
  · have hnoA' : ¬ (s.done = true ∧ 0 < D.remaining) := fun ⟨hdone, hrem⟩ => by
      obtain ⟨-, htx, hbusy⟩ := s.done_iff.mp hdone
      exact hnoA ⟨htx, hbusy, hrem⟩
    have hdecide : handlerDecide s.csRdata s.cfg D = .chunkB (chunkCount D s.cfg.rxHighWater) D.remaining := by
      rw [handlerDecide_csRdata hclean, if_neg hnoA', if_pos (s.rxr_iff.mpr ⟨hta, hrxr⟩)]
    obtain ⟨t, _, _, _, hfirst, hchunk⟩ := handler_reaches_chunkPump hc hs hctx hdev hdma hdecide (.inr ⟨_, rfl⟩)
      (chunkCount_nonneg hrange hnonneg _) hwants
    exact ⟨t, _, _, hfirst, hostRun_one hchunk, chunkCount_toInt hrange hnonneg _, rfl, rfl, rfl, rfl⟩

/-! ### A chunk with both buffers none (R299 case 1) -/

/-- R252, R255, R256: the PUMP of no bytes, whatever stands below its TRANSFER: its DLEN write, one drain read and one
DONE read. -/
theorem hostRun_emptyPump {pos : TransferPos} (hpos : atPump pos) (hs : s.stack = .transferF d src dst n pos :: l)
    (hdev : s.dev? d = some D) (hnone : n = 0#32 ∨ (src = none ∧ dst = none)) (hclean : csClean s)
    (hta : s.bank.cs.getLsbD 7 = true) (hbusy : s.eng.busy = false) (htx : s.eng.txq = []) (hrx : s.eng.rxq = []) :
    hostRun 3 s =
      .next (s.wroteErrata.readCs.readCs.setStack (.transferF d src dst n (pumpReturn 0 pos) :: l)) := by
  have hpump := execPump_atPump hpos hs hdev
  rw [pumpHead_of_no_bytes hnone, hs] at hpump
  have hissues : hostStep s = execPump d src dst n n s := by
    rw [hostStep_running hs]
    rcases hpos with rfl | ⟨saved, rfl⟩ <;> rfl
  let p := s.wroteErrata.setStack (.pumpF d src dst (.begin n n) .drainRead :: .transferF d src dst n pos :: l)
  have hdrained := hostRun_drained (s := p) hpos (State.stack_setStack _ _) hclean hta hbusy htx hrx
  refine hostRun_step (t := p) (hissues.trans hpump) (hdrained.trans ?_)
  exact congrArg Host.Outcome.next (State.setStack_setStack s.wroteErrata.readCs.readCs _ _)

/-- R266: a chunk of no bytes leaves a device with no buffers as it is. -/
theorem State.setDev_afterChunk_zero (hdev : s.dev? d = some D) (hsrc : D.src = none) (hdst : D.dst = none) :
    s.setDev d (D.afterChunk 0) = s := by
  have hsame : D.afterChunk 0 = D := by
    obtain ⟨_, _, _, _, _, _, _, _, _, _⟩ := D
    simp_all [LogicalDevice.afterChunk]
  have hdevs : s.seq.devs.set d D = s.seq.devs := by
    obtain ⟨hlt, hget⟩ := List.getElem?_eq_some_iff.mp hdev
    rw [← hget, List.set_getElem_self]
  rw [hsame, State.setDev, hdevs]

/-- R266, R269: the chunk's TRANSFER from its PUMP back to branch A, with no buffers: no byte moves and the device is as
it was. -/
theorem hostRun_emptyChunk (hc : s.seq.ctx = .interrupt)
    (hs : s.seq.intr = [.transferF d none none n .chunkPump, .handlerF d (.chunkA n)])
    (hdev : s.dev? d = some D) (hsrc : D.src = none) (hdst : D.dst = none) (hrange : inInt32 D.remaining = true)
    (hclean : csClean s) (hta : s.bank.cs.getLsbD 7 = true) (hbusy : s.eng.busy = false) (htx : s.eng.txq = [])
    (hrx : s.eng.rxq = []) :
    ∃ host book env, hostRun 6 s = .next { s with
      bank.dlen := s.cfg.errataDlen
      seq.intr := [.handlerF d .afterA]
      host := host, book := book, env := env } := by
  have hpump := hostRun_emptyPump (.inl rfl) ((State.stack_interrupt hc).trans hs) hdev (.inr ⟨rfl, rfl⟩) hclean hta
    hbusy htx hrx
  let u := s.wroteErrata.readCs.readCs.setStack
    [.transferF d none none n (.chunkRemaining 0), .handlerF d (.chunkA n)]
  have hchunk := hostRun_chunk (s := u) (State.stack_setStack _ _) hdev
    (show inInt32 (D.remaining - (0 : Nat)) = true by simpa using hrange)
  have hback : u.setStack [.handlerF d (afterChunk (.chunkA n))] =
      s.wroteErrata.readCs.readCs.withIntr [.handlerF d .afterA] := by
    rw [show u = _ from rfl, State.setStack_setStack, State.setStack_interrupt (s := s.wroteErrata.readCs.readCs) hc]
    rfl
  rw [State.setDev_afterChunk_zero (s := u) hdev hsrc hdst, State.finish_to_caller (State.stack_setStack _ _),
    State.setStack_setStack, Frame.resume_atChunk (.inl ⟨n, rfl⟩), hback] at hchunk
  exact ⟨_, _, _, hostRun_trans hpump hchunk⟩

/-- Settles O53: entry, the chunk that moves nothing, and the return with bytes still remaining, after which DONE and
INTD are as they were. -/
theorem handlerOnEmptyBuffersIsALivelock : Obligations.HandlerOnEmptyBuffersIsALivelock := by
  intro s d D hclean hc hs hatt hctx hdev hdone hsrc hdst hrange hrem hdma hta hintd htx hrx hbusy
  have hdoneFlag : s.done = true := s.done_iff.mpr ⟨hta, htx, hbusy⟩
  have hdecide := handlerDecide_of_done hclean hdoneFlag hrem
  have hwants : D.wantsIrq = true := by rw [LogicalDevice.wantsIrq, hdone, Bool.true_or]
  obtain ⟨t, host', book', env', hfirst, hchunk⟩ :=
    handler_reaches_chunkPump hc hs hctx hdev hdma hdecide (.inl rfl) (chunkCount_nonneg hrange hrem.le _) hwants
  rw [hsrc, hdst] at hchunk
  let n := chunkCount D s.cfg.txLowWater
  let u : State := { s with
    seq.intr := [.transferF d none none n .chunkPump, .handlerF d (.chunkA n)]
    host := host', book := book', env := env' }
  obtain ⟨host, book, env, hempty⟩ := hostRun_emptyChunk (s := u) hc rfl hdev hsrc hdst hrange hclean hta hbusy htx hrx
  let z : State := { s with
    bank.dlen := s.cfg.errataDlen
    seq.intr := [.handlerF d .afterA]
    host := host, book := book, env := env }
  have hend : hostRun 1 z = .next z.returnFromInterrupt :=
    hostRun_one (hostStep_afterA_remaining hc rfl hdev hrem.ne')
  refine ⟨t, z.returnFromInterrupt, hfirst, hostRun_step hchunk (hostRun_trans hempty hend), ?_, rfl, rfl, rfl, ?_⟩
  · rw [← State.withIntr_of_empty hs]
    rfl
  · have hirq : s.irq = true := by rw [State.irq, intd_eq, hintd, hdoneFlag]; rfl
    have hirq' : z.returnFromInterrupt.irq = true := (State.irq_congr rfl rfl rfl).trans hirq
    rw [State.entryEnabled, State.deliveryEnabled, hirq']
    exact hatt

end Sys2Proof.Machine
end

/-! ## What a step does to the history and to the remaining counts (R60, R285, R290) -/

section
namespace Sys2Proof.Machine

open Sys2Proof.Spec

variable {s t u : State}

/-- R285: a completion callback, as an entry of the history. -/
def Event.isCallback : Event → Bool
  | .callback _ _ => true
  | _ => false

/-- From s to t the history has grown by events of which none is a callback, and no remaining count has grown. -/
structure Quiet (s t : State) : Prop where
  history : ∃ es, t.book.events = s.book.events ++ es ∧ ∀ e ∈ es, e.isCallback = false
  remaining : ∀ d D D', s.dev? d = some D → t.dev? d = some D' → D'.remaining ≤ D.remaining

/-- What a step can do beyond that: the arm's assignment to one device (R265), and a callback of the handler (R283,
R285). -/
inductive Progress (s t : State) : Prop
  | quiet (h : Quiet s t)
  | arms {d : Nat} {src dst : Option Nat} {n : Word} {l : List Frame}
      (hs : s.stack = .transferF d src dst n .armRemaining :: l) (hbook : t.book = s.book)
      (hothers : ∀ e, e ≠ d → t.dev? e = s.dev? e)
  | callsBack {d : Nat} {pos : HandlerPos} {l : List Frame} (hs : s.stack = .handlerF d pos :: l)
      (hbook : t.book.events = s.book.events ++ [.callback .onSendComplete d]) (hdevs : t.seq.devs = s.seq.devs)

/-! ### Quiet updates -/

/-- Devices and history alone decide. -/
theorem Quiet.congr (h : Quiet s u) (hevents : t.book.events = u.book.events) (hdevs : t.seq.devs = u.seq.devs) :
    Quiet s t where
  history := hevents ▸ h.history
  remaining d D D' hD hD' := h.remaining d D D' hD (by rwa [State.dev?, ← hdevs])

/-- The same devices, and a history with these events more. -/
theorem Quiet.logs {es : List Event} (hevents : t.book.events = s.book.events ++ es)
    (hes : ∀ e ∈ es, e.isCallback = false) (hdevs : t.seq.devs = s.seq.devs) : Quiet s t where
  history := ⟨es, hevents, hes⟩
  remaining d D D' hD hD' := by
    rw [State.dev?, hdevs, ← State.dev?, hD] at hD'
    cases hD'
    exact le_rfl

theorem Quiet.logsOne {e : Event} (hevents : t.book.events = s.book.events ++ [e]) (he : e.isCallback = false)
    (hdevs : t.seq.devs = s.seq.devs) : Quiet s t :=
  .logs hevents (List.forall_mem_singleton.mpr he) hdevs

theorem Quiet.same (hevents : t.book.events = s.book.events) (hdevs : t.seq.devs = s.seq.devs) : Quiet s t :=
  .logs (es := []) (by rw [hevents, List.append_nil]) (fun _ he => nomatch he) hdevs

/-- R140: a CS read, whatever becomes of the positions. -/
theorem Quiet.reads (hbook : t.book = s.readCs.book) (hdevs : t.seq.devs = s.seq.devs) : Quiet s t :=
  .logsOne (by rw [hbook]; rfl) rfl hdevs

theorem Quiet.writeCs {w : Word} (h : s.writeCs w = .next t) : Quiet s t := by
  rw [(State.writeCs_next h).1]
  exact .logsOne rfl rfl rfl

theorem Quiet.writeFifo {w : Word} (h : s.writeFifo w = .next t) : Quiet s t := by
  rw [(State.writeFifo_next h).1]
  exact .logsOne rfl rfl rfl

theorem Quiet.readFifo (h : s.readFifo = .next t) : Quiet s t := by
  rw [(State.readFifo_next h).1]
  exact .logsOne rfl rfl rfl

/-- R266: an update of a device that does not raise its remaining count. -/
theorem Quiet.updateDev (d : Nat) {f : LogicalDevice → LogicalDevice} (hf : ∀ D, (f D).remaining ≤ D.remaining) :
    Quiet s (s.updateDev d f) where
  history := ⟨[], by simp, fun _ he => nomatch he⟩
  remaining e D D' hD hD' := by
    rw [State.dev?, State.updateDev_devs, List.getElem?_modify, ← State.dev?, hD] at hD'
    cases hD'
    split
    · exact hf D
    · exact le_rfl

theorem Quiet.moveTo {f : Frame} (h : Quiet s u) : Quiet s (u.moveTo f) := h.congr rfl rfl

/-- A result is given to whoever waits for it. -/
theorem Quiet.deliver {r : OpResult} (h : Quiet s u) : Quiet s (u.deliver r) := by
  obtain ⟨-, -, -, -, hbook, -, hdevs, -, -⟩ := u.deliver_keeps r
  exact h.congr (by rw [hbook]) hdevs

theorem Quiet.finish {r : OpResult} (h : Quiet s u) : Quiet s (u.finish r) :=
  Quiet.deliver (h.congr (t := u.pop) rfl rfl)

/-! ### Instructions and running operations -/

variable {d : Nat} {src dst : Option Nat} {n : Word} {l : List Frame}

/-- R240. -/
theorem execSelect_quiet {c : Word} (h : execSelect d c s = .next t) : Quiet s t := by
  unfold execSelect at h
  split at h
  · cases h
  · split at h
    · cases h; exact .deliver (.same rfl rfl)
    · split at h
      · cases h; exact .reads rfl rfl
      · split at h
        · cases h; exact .logsOne rfl rfl rfl
        · cases h; exact .reads rfl rfl

/-- R264. -/
theorem execTransfer_quiet (h : execTransfer d src dst n s = .next t) : Quiet s t := by
  unfold execTransfer at h
  split at h
  · cases h
  · split at h
    · cases h; exact .deliver (.reads rfl rfl)
    · cases h; exact .reads rfl rfl

/-- R250. -/
theorem execPump_quiet {txc rxc : Word} (h : execPump d src dst txc rxc s = .next t) : Quiet s t := by
  unfold execPump at h
  split at h
  · cases h
  · split at h
    · cases h
    · cases h; exact .logsOne rfl rfl rfl

/-- R280. -/
theorem execIrqHandler_quiet (h : execIrqHandler s = .next t) : Quiet s t := by
  unfold execIrqHandler at h
  split at h
  · split at h
    · cases h
    · cases h; exact .reads rfl rfl
  · cases h

/-- No instruction calls back or arms in the step that issues it. -/
theorem exec_quiet {i : Instr} (h : exec i s = .next t) : Quiet s t := by
  cases i with
  | csWrite w => exact .writeCs h
  | fifoRead => exact .readFifo h
  | fifoWrite w => exact .writeFifo h
  | csRead | clkRead | clkWrite | dlenRead | dlenWrite | ltohRead | ltohWrite | dcRead | dcWrite | init =>
    cases h; exact .logsOne rfl rfl rfl
  | select d c => exact execSelect_quiet h
  | transfer d src dst n => exact execTransfer_quiet h
  | pump d src dst txc rxc => exact execPump_quiet h
  | irqHandler => exact execIrqHandler_quiet h

/-- R230: the register writes of INIT. -/
theorem initAdvance_quiet {pos : InitPos} (h : initAdvance pos s = .next t) : Quiet s t := by
  cases pos with
  | writeCs =>
    obtain ⟨u, hu, ht⟩ := andThen_eq_next.mp h
    cases ht; exact .moveTo (.writeCs hu)
  | writeClk => cases h; exact .logsOne rfl rfl rfl
  | writeDlen => cases h; exact .finish (.logsOne rfl rfl rfl)

/-- SELECT (R240). -/
theorem selectAdvance_quiet {c : BitVec 2} {pos : SelectPos} (h : selectAdvance d c pos s = .next t) : Quiet s t := by
  unfold selectAdvance at h
  split at h
  · cases h
  · cases pos <;> dsimp only at h
    case attach =>
      split at h
      · cases h; exact .logsOne rfl rfl rfl
      · cases h; exact .finish (.same rfl rfl)
    case enableRead | modeRead | modeSetRead | chipRead => cases h; exact .reads rfl rfl
    case divisor => cases h; exact .logsOne rfl rfl rfl
    case enableWrite | modeClear | modeSet =>
      obtain ⟨u, hu, ht⟩ := andThen_eq_next.mp h
      cases ht; exact .moveTo (.writeCs hu)
    case chipWrite =>
      obtain ⟨u, hu, ht⟩ := andThen_eq_next.mp h
      cases ht; exact .finish (.writeCs hu)

/-- R266: a chunk never adds to the remaining count. -/
theorem LogicalDevice.subtract_remaining_le (D : LogicalDevice) (r : Nat) : (D.subtract r).remaining ≤ D.remaining := by
  unfold LogicalDevice.subtract LogicalDevice.setRemaining
  split
  · exact Int.sub_le_self _ (Int.natCast_nonneg r)
  · exact le_rfl

/-- R265: the assignment to one device leaves the others. -/
theorem State.updateDev_dev?_ne {e : Nat} (h : e ≠ d) (f : LogicalDevice → LogicalDevice) :
    (s.updateDev d f).dev? e = s.dev? e := by
  simp [State.dev?, h.symm]

/-- TRANSFER (R260): its one line that is not quiet is the arm's assignment to the remaining count. -/
theorem transferAdvance_progress {pos : TransferPos} (hs : s.stack = .transferF d src dst n pos :: l)
    (h : transferAdvance d src dst n pos s = .next t) : Progress s t := by
  unfold transferAdvance at h
  cases pos <;> dsimp only at h
  case armRemaining => cases h; exact .arms hs rfl fun e he => State.updateDev_dev?_ne (s := s) he _
  all_goals refine .quiet ?_
  case chunkPump | polledPump => exact execPump_quiet h
  case armClear | taSet | clearWrite =>
    obtain ⟨u, hu, ht⟩ := andThen_eq_next.mp h
    cases ht; exact .moveTo (.writeCs hu)
  case armTa | release =>
    obtain ⟨u, hu, ht⟩ := andThen_eq_next.mp h
    cases ht; exact .finish (.writeCs hu)
  case armClearRead | armTaRead | taRead | clearRead | releaseRead => cases h; exact .reads rfl rfl
  case armDlen => cases h; exact .logsOne rfl rfl rfl
  case armIn | armOut | chunkIn => cases h; exact .moveTo (.updateDev d fun _ => le_rfl)
  case chunkRemaining r => cases h; exact .moveTo (.updateDev d (·.subtract_remaining_le r))
  case chunkOut => cases h; exact .finish (.updateDev d fun _ => le_rfl)
  case logUnsupported => cases h; exact .finish (.logsOne rfl rfl rfl)
  case abandon => cases h; exact .finish (.same rfl rfl)
  case enterCritical => cases h; exact .same rfl rfl
  case leaveCritical saved timedOut =>
    split at h
    · cases h; exact .finish (.same rfl rfl)
    · cases h; exact .same rfl rfl

/-- R102, R326: one poll of a busy-wait, given what it does once met. -/
theorem State.poll_quiet {flag : Word} {polls : Nat} {met : State → State} {again : Frame}
    (hmet : Quiet s (met s.readCs)) : Quiet s (s.poll flag polls met again) := by
  rcases s.poll_cases flag polls met again with ⟨-, h⟩ | ⟨-, -, h⟩ | ⟨-, -, h⟩ <;> rw [h]
  · exact hmet
  · exact .reads rfl rfl
  · exact .finish (.reads rfl rfl)

/-- PUMP (R250). -/
theorem pumpAdvance_quiet {q : TransferRequest} {pos : PumpPos} (h : pumpAdvance d src dst q pos s = .next t) :
    Quiet s t := by
  cases pos with
  | waitTxd _ | waitRxd _ => cases h; exact State.poll_quiet (.reads rfl rfl)
  | waitDone _ => cases h; exact State.poll_quiet (.finish (.reads rfl rfl))
  | push | pushFiller =>
    obtain ⟨u, hu, ht⟩ := andThen_eq_next.mp h
    cases ht; exact .moveTo (.writeFifo hu)
  | pop | drainPop =>
    obtain ⟨u, hu, ht⟩ := andThen_eq_next.mp h
    cases ht; exact .moveTo (.readFifo hu)
  | store b => cases h; exact .same rfl rfl
  | drainRead => cases h; exact .reads rfl rfl

/-- IRQ_HANDLER (R280): its two lines that are not quiet call back on_send_complete. -/
theorem handlerAdvance_progress {pos : HandlerPos} (hs : s.stack = .handlerF d pos :: l)
    (h : handlerAdvance d pos s = .next t) : Progress s t := by
  unfold handlerAdvance at h
  split at h
  · cases h
  · cases pos <;> dsimp only at h
    case chunkA | chunkB => exact .quiet (execTransfer_quiet h)
    case afterA =>
      split at h
      · cases h; exact .quiet (.reads rfl rfl)
      · cases h; exact .quiet (.finish (.same rfl rfl))
    case clearTa =>
      obtain ⟨u, hu, ht⟩ := andThen_eq_next.mp h
      cases ht; exact .quiet (.moveTo (.writeCs hu))
    case callbackA => cases h; exact .callsBack hs rfl rfl
    case afterB =>
      split at h
      · cases h; exact .callsBack hs rfl rfl
      · cases h; exact .quiet (.finish (.same rfl rfl))
    case ret => cases h; exact .quiet (.finish (.same rfl rfl))

/-- Whichever operation is running. -/
theorem advance_progress {f : Frame} (hs : s.stack = f :: l) (h : advance f s = .next t) : Progress s t := by
  cases f with
  | initF pos => exact .quiet (initAdvance_quiet h)
  | selectF d c pos => exact .quiet (selectAdvance_quiet h)
  | transferF d src dst n pos => exact transferAdvance_progress hs h
  | pumpF d src dst q pos => exact .quiet (pumpAdvance_quiet h)
  | handlerF d pos => exact handlerAdvance_progress hs h

/-! ### A step of each agent -/

/-- A line of the program calls back nothing and arms nothing. -/
theorem runLine_quiet {line : HostLine} (h : runLine line s = .next t) : Quiet s t := by
  rcases runLine_next h with ⟨dst, i, u, hexec, rfl⟩ | ⟨host, ie, rfl⟩
  · obtain ⟨host, hdone⟩ := u.lineDone_eq i
    have hq : Quiet (s.issued dst) u := exec_quiet hexec
    have hq' : Quiet s u := ⟨hq.history, hq.remaining⟩
    rw [hdone]
    exact hq'.congr rfl rfl
  · exact .same rfl rfl

theorem hostStep_progress (h : hostStep s = .next t) : Progress s t := by
  unfold hostStep at h
  split at h
  · next hs => exact advance_progress hs h
  · exact .quiet (execIrqHandler_quiet h)
  · split at h
    · exact .quiet (runLine_quiet h)
    · cases h

/-- R190, R191, R193: the ENGINE records at most the byte it has moved. -/
theorem engineStep_quiet (h : engineStep s = .next t) : Quiet s t := by
  obtain ⟨-, ⟨hl, rfl⟩ | ⟨-, -, rfl⟩ | ⟨-, -, rfl⟩⟩ := engineStep_next h
  · obtain ⟨b, q, m, env, -, hload⟩ := State.load_frame hl
    rw [hload]
    exact .same rfl rfl
  · obtain ⟨shRx, m, k, env, hedge, -, -⟩ := s.edgeStep_frame
    rw [hedge]
    exact .same rfl rfl
  · exact .logsOne rfl rfl rfl

theorem agentStep_progress {a : Agent} (h : agentStep a s = .next t) : Progress s t := by
  cases a with
  | host => exact hostStep_progress h
  | engine => exact .quiet (engineStep_quiet h)
  | delivery =>
    obtain ⟨-, rfl⟩ := deliveryStep_next h
    exact .quiet (.same rfl rfl)

/-- Everything a step of the machine can do to the history and to the remaining counts. -/
theorem step_progress (h : step s = .next t) : Progress s t := by
  obtain ⟨-, a, s1, t1, hchoose, hagent, rfl⟩ := step_next h
  obtain ⟨hs1, -, -⟩ := State.chooseAgent_frame hchoose
  generalize s1.env = env at hs1
  subst hs1
  cases agentStep_progress hagent with
  | quiet hq => exact .quiet ⟨hq.history, hq.remaining⟩
  | arms hs hbook hothers => exact .arms hs hbook hothers
  | callsBack hs hbook hdevs => exact .callsBack hs hbook hdevs

/-! ### What follows for callbacks and counts -/

/-- R280: IRQ_HANDLER runs in interrupt context only. -/
theorem Inv.ctx_of_handler {pos : HandlerPos} (hi : Inv s) (hs : s.stack = .handlerF d pos :: l) :
    s.seq.ctx = .interrupt := by
  have hstart := (stackOk_cons.mp (hs ▸ hi.stackOk)).1
  cases l with
  | nil => exact hstart
  | cons g l => exact hstart.elim

/-- Settles O55: the one event that a step adds as a callback is the handler's. -/
theorem callbacksComeOnlyFromTheHandler : Obligations.CallbacksComeOnlyFromTheHandler := by
  rintro s t name d hi h ⟨es, hes, hmem⟩
  have hadded {es' : List Event} (h' : t.book.events = s.book.events ++ es') : Event.callback name d ∈ es' :=
    List.append_cancel_left (hes.symm.trans h') ▸ hmem
  cases step_progress h with
  | quiet hq =>
    obtain ⟨es', hes', hnone⟩ := hq.history
    exact absurd (hnone _ (hadded hes')) Bool.noConfusion
  | arms hs hbook hothers => exact absurd (hadded (es' := []) (by rw [hbook, List.append_nil])) List.not_mem_nil
  | @callsBack e pos l hs hbook hdevs =>
    have hevent := List.mem_singleton.mp (hadded hbook)
    have hname : name = .onSendComplete := (Event.callback.inj hevent).1
    have hc := hi.ctx_of_handler hs
    exact ⟨hc, hi.handlerMasked hc, hname, e, pos, l, (State.stack_interrupt hc).symm.trans hs⟩

/-- Settles O59: quiet steps and callbacks raise no count, and an arm raises that of its own device alone. -/
theorem onlyAnArmRaisesTheRemainingCount : Obligations.OnlyAnArmRaisesTheRemainingCount := by
  intro s t e D D' h hD hD' hlt
  cases step_progress h with
  | quiet hq => exact absurd (hq.remaining e D D' hD hD') (Int.not_le.mpr hlt)
  | @arms d src dst n l hs hbook hothers =>
    by_cases he : e = d
    · subst he
      exact ⟨src, dst, n, l, hs⟩
    · rw [hothers e he, hD] at hD'
      cases hD'
      exact absurd hlt (Int.lt_irrefl _)
  | callsBack hs hbook hdevs =>
    rw [State.dev?, hdevs, ← State.dev?, hD] at hD'
    cases hD'
    exact absurd hlt (Int.lt_irrefl _)

end Sys2Proof.Machine
end

/-! ## Delivery of an interrupt (R341, R344, R345) -/

section
namespace Sys2Proof.Machine

open Sys2Proof.Spec

variable {s : State}

/-! ### The CS value that F7 records -/

/-- R140: the CS value and a CS read differ in the reserved bits alone. -/
theorem csWord_getLsbD {k : Nat} (hk : csReserved.getLsbD k = false) : s.csWord.getLsbD k = s.csRdata.getLsbD k := by
  rw [State.csRdata, BitVec.getLsbD_or, BitVec.getLsbD_and, hk, Bool.and_false, Bool.or_false]

/-- The CS value shows the stored fields. -/
theorem csWord_and_rwBits (h : csClean s) : s.csWord &&& rwBits = s.bank.cs :=
  calc s.csWord &&& rwBits
      = s.csWord &&& csStored := by rw [csStored_eq, rwBits]
    _ = s.bank.cs &&& csStored := by rw [State.csWord, or_and_distrib, flags_and_stored, BitVec.or_zero]
    _ = s.bank.cs := and_mask_of_clean (storedOnly_of_csClean h)

/-! ### What enables it, and what it does -/

/-- R341: with the line attached, delivery enters the handler. -/
theorem deliveryStep_attached (h : s.seq.irqAttached = true) : deliveryStep s = .next s.enterInterrupt := by
  rw [deliveryStep, if_pos h]

/-- R344: with no handler attached, delivery is F7. -/
theorem deliveryStep_detached (h : s.seq.irqAttached = false) :
    deliveryStep s = .fault (.unhandledIrq s.csWord) := by
  rw [deliveryStep, h, if_neg Bool.false_ne_true]

/-- Settles O47: entry leaves nothing running in interrupt context, and F7 records `csWord`, whose flags are those of a
CS read. -/
theorem deliveryEntersTheHandlerOrFaults : Obligations.DeliveryEntersTheHandlerOrFaults := by
  intro s
  refine ⟨fun hatt => ?_, fun hatt hclean => ?_⟩
  · exact ⟨s.enterInterrupt, deliveryStep_attached hatt, rfl, hostStep_handler rfl rfl⟩
  · have hcs := storedOnly_of_csClean hclean
    refine ⟨s.csWord, deliveryStep_detached hatt, csWord_and_rwBits hclean, ?_, ?_, ?_, ?_, ?_⟩
    · rw [csWord_getLsbD (by decide), csRdata_done hcs, State.done_eq]
    · rw [csWord_getLsbD (by decide), csRdata_rxd hcs, State.rxd]
    · rw [csWord_getLsbD (by decide), csRdata_txd hcs, State.txd]
    · rw [csWord_getLsbD (by decide), csRdata_rxr hcs, State.rxr_eq]
    · rw [csWord_getLsbD (by decide), csRdata_rxf hcs, State.rxf]

/-- R210: IRQ is a source's enable and its flag. -/
theorem State.irq_iff (s : State) :
    s.irq = true ↔ (s.bank.cs.getLsbD 9 = true ∧ s.done = true) ∨ (s.bank.cs.getLsbD 10 = true ∧ s.rxr = true) := by
  rw [State.irq, Bool.or_eq_true, Bool.and_eq_true, Bool.and_eq_true, intd_eq, intr_eq]

theorem State.deliveryEnabled_iff (s : State) :
    s.deliveryEnabled = true ↔ s.irq = true ∧ s.seq.ie = true ∧ s.seq.ctx = .thread := by
  rw [State.deliveryEnabled, Bool.and_eq_true, Bool.and_eq_true, beq_iff_eq, and_assoc]

theorem State.entryEnabled_iff (s : State) :
    s.entryEnabled = true ↔ s.deliveryEnabled = true ∧ s.seq.irqAttached = true := by
  rw [State.entryEnabled, Bool.and_eq_true]

/-- R345: no delivery is enabled while the handler runs. -/
theorem State.deliveryEnabled_in_handler (h : s.seq.ctx = .interrupt) : s.deliveryEnabled = false := by
  rw [Bool.eq_false_iff]
  intro hen
  obtain ⟨-, -, hc⟩ := s.deliveryEnabled_iff.mp hen
  rw [h] at hc
  cases hc

end Sys2Proof.Machine
end

/-! ## The two contexts of the HOST (R341, R346) -/

section
namespace Sys2Proof.Machine

variable {sel : Prop} {s t u : State}

/-- What a step that is no interrupt entry does to the HOST's context: it stays, and the handler leaves the thread's
position; or the one operation left in interrupt context has ended, and the HOST returns to where the thread stopped. -/
inductive ContextMove (s t : State) : Prop
  | stays (hctx : t.seq.ctx = s.seq.ctx) (hthread : s.seq.ctx = .interrupt → t.seq.thread = s.seq.thread)
  | returns (hfrom : s.seq.ctx = .interrupt) (hlast : ∃ f, s.stack = [f]) (hctx : t.seq.ctx = .thread)
      (hie : t.seq.ie = true) (hintr : t.seq.intr = []) (hthread : t.seq.thread = s.seq.thread)

/-! ### Moves of the HOST -/

/-- The sequencer's part alone decides. -/
theorem ContextMove.congr {s' t' : State} (h : ContextMove s' t') (hs : s'.seq = s.seq) (ht : t.seq = t'.seq) :
    ContextMove s t := by
  cases h with
  | stays hctx hthread => rw [hs, ← ht] at hctx hthread; exact .stays hctx hthread
  | returns hfrom hlast hctx hie hintr hthread =>
    rw [hs] at hfrom hthread
    rw [State.stack_congr hs] at hlast
    rw [← ht] at hctx hie hintr hthread
    exact .returns hfrom hlast hctx hie hintr hthread

theorem ContextMove.of_seq_eq (h : t.seq = s.seq) : ContextMove s t :=
  .stays (by rw [h]) fun _ => by rw [h]

/-- In interrupt context a replacement leaves the thread's operations. -/
theorem State.setStack_keeps_thread (hc : s.seq.ctx = .interrupt) (l : List Frame) :
    (s.setStack l).seq.thread = s.seq.thread := by
  rw [State.setStack_interrupt hc]

/-- An act leaves the thread's operations. -/
theorem Acts.keeps_thread (h : Acts sel s t) : t.seq.thread = s.seq.thread := by
  cases h with
  | quiet h => rw [State.seq_of_held h]
  | csWrite h => rw [(State.writeCs_next h).1]; rfl
  | fifoWrite h => rw [(State.writeFifo_next h).1]; rfl
  | fifoRead h => rw [(State.readFifo_next h).1]; rfl
  | memory | device | mask | attach | detach => rfl

theorem ContextMove.setStack (h : Acts sel s u) (l : List Frame) : ContextMove s (u.setStack l) := by
  have hctx : u.seq.ctx = s.seq.ctx := h.keeps.1
  exact .stays hctx fun hc => (State.setStack_keeps_thread (hctx.trans hc) l).trans h.keeps_thread

/-- R320, R341: a result given to a caller or to the program keeps the context; given to nobody in interrupt context, it
is the return. -/
theorem ContextMove.deliver (hctx : u.seq.ctx = s.seq.ctx)
    (hthread : s.seq.ctx = .interrupt → u.seq.thread = s.seq.thread)
    (hlast : s.seq.ctx = .interrupt → u.stack = [] → ∃ f, s.stack = [f]) (r : OpResult) :
    ContextMove s (u.deliver r) := by
  rcases u.deliver_cases r with ⟨f, l, -, h⟩ | ⟨-, -, h⟩ | ⟨hc, hempty, h⟩ <;> rw [h]
  · exact .stays hctx fun hc => (State.setStack_keeps_thread (hctx.trans hc) _).trans (hthread hc)
  · exact .stays hctx hthread
  · have hfrom : s.seq.ctx = .interrupt := hctx.symm.trans hc
    exact .returns hfrom (hlast hfrom hempty) rfl rfl rfl (hthread hfrom)

/-- A move of the HOST, in interrupt context one of a running operation. -/
theorem HostMove.contextMove (h : HostMove sel s t) (hrun : s.seq.ctx = .interrupt → s.stack ≠ []) :
    ContextMove s t := by
  cases h with
  | act ha => exact .stays ha.keeps.1 fun _ => ha.keeps_thread
  | move ha => exact .setStack ha _
  | push ha => exact .setStack ha _
  | deliver r ha =>
    obtain ⟨hctx, hstack, -, -⟩ := ha.keeps
    exact .deliver hctx (fun _ => ha.keeps_thread) (fun hc hempty => absurd (hstack.symm.trans hempty) (hrun hc)) r
  | @finish u r ha =>
    obtain ⟨hctx, hstack, -, -⟩ := ha.keeps
    refine .deliver (u := u.pop) hctx (fun hc => ?_) (fun hc hempty => ?_) r
    · exact (State.setStack_keeps_thread (hctx.trans hc) _).trans ha.keeps_thread
    · rw [State.stack_pop, hstack] at hempty
      obtain ⟨f, l, hs⟩ := List.exists_cons_of_ne_nil (hrun hc)
      rw [hs, List.tail_cons] at hempty
      exact ⟨f, hempty ▸ hs⟩

/-- R341: IRQ_HANDLER's first step stays in interrupt context. -/
theorem execIrqHandler_contextMove (h : execIrqHandler s = .next t) : ContextMove s t := by
  unfold execIrqHandler at h
  split at h
  · split at h
    · cases h
    · cases h; exact .setStack (sel := False) (s := s) (u := s.readCs) (.quiet rfl) _
  · cases h

theorem hostStep_contextMove (h : hostStep s = .next t) : ContextMove s t := by
  by_cases hstart : s.seq.ctx = .interrupt ∧ s.stack = []
  · obtain ⟨hc, hempty⟩ := hstart
    rw [hostStep_handler hc ((State.stack_interrupt hc).symm.trans hempty)] at h
    exact execIrqHandler_contextMove h
  · obtain ⟨s', t', hs, hm, ht⟩ := hostStep_move h
    have hseq : s'.seq = s.seq := State.seq_of_held hs
    rw [← hseq, ← State.stack_congr hseq, not_and] at hstart
    exact (hm.contextMove hstart).congr hseq (State.seq_of_held ht)

/-! ### A step of the machine -/

/-- R341, R346: a step is an enabled entry, or makes no move between the contexts but the handler's return. -/
theorem step_context (h : step s = .next t) :
    ContextMove s t ∨ (s.entryEnabled = true ∧ ∃ env, t = { s.enterInterrupt with env := env }) := by
  obtain ⟨-, a, u, v, hchoose, hagent, rfl⟩ := step_next h
  obtain ⟨hmem, -⟩ := State.chooseAgent_some hchoose
  obtain ⟨hu, -, -⟩ := State.chooseAgent_frame hchoose
  generalize u.env = env at hu
  subst hu
  cases a with
  | host => exact .inl ((hostStep_contextMove hagent).congr rfl rfl)
  | engine => exact .inl (.of_seq_eq (engineStep_keeps hagent).1)
  | delivery =>
    obtain ⟨hatt, rfl⟩ := deliveryStep_next hagent
    have hen : s.deliveryEnabled = true := by simpa [State.mem_enabledAgents] using hmem
    exact .inr ⟨s.entryEnabled_iff.mpr ⟨hen, hatt⟩, _, rfl⟩

/-- R280: the one operation left in interrupt context is IRQ_HANDLER. -/
theorem Inv.handler_of_last {f : Frame} (hi : Inv s) (hc : s.seq.ctx = .interrupt) (hs : s.stack = [f]) :
    ∃ e pos, s.seq.intr = [.handlerF e pos] := by
  obtain ⟨hstart, -, -⟩ := stackOk_cons.mp (hs ▸ hi.stackOk)
  rw [State.stack_interrupt hc] at hs
  rw [hc] at hstart
  cases f with
  | handlerF e pos => exact ⟨e, pos, hs⟩
  | initF | selectF | transferF | pumpF => cases hstart

/-- Settles O48: the enabling conditions by their own equations, and both step clauses from the moves between the two
contexts, the mask in interrupt context being the invariant's. -/
theorem interruptsAreDeliveredOnlyToAnUnmaskedThread : Obligations.InterruptsAreDeliveredOnlyToAnUnmaskedThread := by
  refine ⟨fun s => ⟨?_, s.entryEnabled_iff⟩, fun s t _ h hthread hintr => ?_, fun s t hi h hc => ?_⟩
  · rw [s.deliveryEnabled_iff, s.irq_iff, s.done_iff, s.rxr_iff]
  · rcases step_context h with (⟨hctx, -⟩ | ⟨hfrom, -⟩) | ⟨hen, env, rfl⟩
    · cases hthread.symm.trans (hctx.symm.trans hintr)
    · cases hthread.symm.trans hfrom
    · exact ⟨hen, rfl, rfl, rfl, rfl, rfl, rfl⟩
  · have hno : s.deliveryEnabled = false := State.deliveryEnabled_in_handler hc
    refine ⟨hno, ?_⟩
    rcases step_context h with (⟨hctx, hthread⟩ | ⟨-, ⟨f, hs⟩, hctx, hie, hempty, hthread⟩) | ⟨hen, -⟩
    · have hc' : t.seq.ctx = .interrupt := hctx.trans hc
      exact ⟨hthread hc, .inl ⟨hc', (stepKeepsTheInvariant s t hi h).handlerMasked hc'⟩⟩
    · exact ⟨hthread, .inr ⟨hctx, hie, hempty, hi.handler_of_last hc hs⟩⟩
    · obtain ⟨hdel, -⟩ := s.entryEnabled_iff.mp hen
      exact absurd (hno.symm.trans hdel) Bool.false_ne_true

end Sys2Proof.Machine
end

/-! ## What no step changes (R8, R60, R383) -/

section
namespace Sys2Proof.Machine

open Sys2Proof.Spec

variable {s t : State} {o : StepResult}

/-- The parameters, and each device's configuration in the order of the indices: what no rule writes (R8, R383). -/
def State.configuration (s : State) :
    Params × List (BitVec 2 × BitVec 2 × Half × Bool × Bool × Callback × Callback) :=
  (s.cfg, s.seq.devs.map deviceConfig)

/-- An answer that, where it goes on, goes on with the configuration of s. -/
def KeepsConfiguration (s : State) (o : StepResult) : Prop := ∀ t, o = .next t → t.configuration = s.configuration

/-! ### Answers -/

theorem KeepsConfiguration.next (h : t.configuration = s.configuration) : KeepsConfiguration s (.next t) := by
  rintro _ ⟨⟩
  exact h

theorem KeepsConfiguration.fault (r : Fault) : KeepsConfiguration s (.fault r) := by rintro _ ⟨⟩

theorem KeepsConfiguration.refused (r : Refusal) : KeepsConfiguration s (.refused r) := by rintro _ ⟨⟩

/-- Two parts that keep it, one after the other. -/
theorem KeepsConfiguration.andThen {f : State → StepResult} (ho : KeepsConfiguration s o)
    (hf : ∀ u, KeepsConfiguration u (f u)) : KeepsConfiguration s (andThen o f) := by
  intro t h
  obtain ⟨u, hu, ht⟩ := andThen_eq_next.mp h
  exact (hf u t ht).trans (ho u hu)

/-! ### Shared operations -/

theorem State.writeCs_keepsConfiguration (s : State) (w : Word) : KeepsConfiguration s (s.writeCs w) := by
  intro t h
  rw [(State.writeCs_next h).1]
  rfl

theorem State.writeFifo_keepsConfiguration (s : State) (w : Word) : KeepsConfiguration s (s.writeFifo w) := by
  intro t h
  rw [(State.writeFifo_next h).1]
  rfl

theorem State.readFifo_keepsConfiguration (s : State) : KeepsConfiguration s s.readFifo := by
  intro t h
  rw [(State.readFifo_next h).1]
  rfl

@[simp] theorem State.deliver_configuration (s : State) (r : OpResult) :
    (s.deliver r).configuration = s.configuration := by
  obtain ⟨hcfg, -, -, -, -, -, hdevs, -, -⟩ := s.deliver_keeps r
  rw [State.configuration, hcfg, hdevs, State.configuration]

@[simp] theorem State.finish_configuration (s : State) (r : OpResult) :
    (s.finish r).configuration = s.configuration := s.pop.deliver_configuration r

/-- R383: an update that keeps every record's configuration keeps the list of them. -/
theorem State.updateDev_configuration (s : State) (d : Nat) {f : LogicalDevice → LogicalDevice}
    (hf : ∀ D, deviceConfig (f D) = deviceConfig D) : (s.updateDev d f).configuration = s.configuration := by
  have hlist : (s.seq.devs.modify d f).map deviceConfig = s.seq.devs.map deviceConfig := by
    apply List.ext_getElem?
    intro i
    rw [List.getElem?_map, List.getElem?_map, List.getElem?_modify, Option.map_eq_map, Option.map_map]
    refine Option.map_congr fun D _ => ?_
    rw [Function.comp_apply]
    split
    · exact hf D
    · rfl
  rw [State.configuration, State.updateDev_devs, hlist]
  rfl

/-- R11, R265: D.remaining is no part of the configuration. -/
theorem LogicalDevice.setRemaining_config (D : LogicalDevice) (n : Int) :
    deviceConfig (D.setRemaining n) = deviceConfig D := by
  unfold LogicalDevice.setRemaining
  split <;> rfl

/-- R102, R326: one poll of a busy-wait, given what it does once met. -/
theorem State.poll_configuration {flag : Word} {polls : Nat} {met : State → State} {again : Frame}
    (hmet : (met s.readCs).configuration = s.configuration) :
    (s.poll flag polls met again).configuration = s.configuration := by
  rcases s.poll_cases flag polls met again with ⟨-, h⟩ | ⟨-, -, h⟩ | ⟨-, -, h⟩ <;> rw [h]
  · exact hmet
  · rfl
  · exact s.readCs.finish_configuration _

/-! ### Instructions and running operations -/

/-- R240. -/
theorem execSelect_keepsConfiguration (d : Nat) (c : Word) (s : State) : KeepsConfiguration s (execSelect d c s) := by
  unfold execSelect
  split
  · exact .fault _
  · split
    · exact .next (s.deliver_configuration _)
    · split
      · exact .next rfl
      · split <;> exact .next rfl

/-- R264. -/
theorem execTransfer_keepsConfiguration (d : Nat) (src dst : Option Nat) (n : Word) (s : State) :
    KeepsConfiguration s (execTransfer d src dst n s) := by
  unfold execTransfer
  split
  · exact .fault _
  · split
    · exact .next (s.readCs.deliver_configuration _)
    · exact .next rfl

/-- R250. -/
theorem execPump_keepsConfiguration (d : Nat) (src dst : Option Nat) (txc rxc : Word) (s : State) :
    KeepsConfiguration s (execPump d src dst txc rxc s) := by
  unfold execPump
  split
  · exact .fault _
  · split
    · exact .refused _
    · exact .next rfl

/-- R280. -/
theorem execIrqHandler_keepsConfiguration (s : State) : KeepsConfiguration s (execIrqHandler s) := by
  unfold execIrqHandler
  split
  · split
    · exact .fault _
    · exact .next rfl
  · exact .refused _

/-- The step that issues an instruction. -/
theorem exec_keepsConfiguration (i : Instr) (s : State) : KeepsConfiguration s (exec i s) := by
  cases i with
  | csWrite w => exact s.writeCs_keepsConfiguration w
  | fifoRead => exact s.readFifo_keepsConfiguration
  | fifoWrite w => exact s.writeFifo_keepsConfiguration w
  | csRead | clkRead | clkWrite | dlenRead | dlenWrite | ltohRead | ltohWrite | dcRead | dcWrite | init =>
    exact .next rfl
  | select d c => exact execSelect_keepsConfiguration d c s
  | transfer d src dst n => exact execTransfer_keepsConfiguration d src dst n s
  | pump d src dst txc rxc => exact execPump_keepsConfiguration d src dst txc rxc s
  | irqHandler => exact execIrqHandler_keepsConfiguration s

/-- INITIALIZE (R230). -/
theorem initAdvance_keepsConfiguration (pos : InitPos) (s : State) : KeepsConfiguration s (initAdvance pos s) := by
  cases pos with
  | writeCs => exact (s.writeCs_keepsConfiguration _).andThen fun _ => .next rfl
  | writeClk => exact .next rfl
  | writeDlen => exact .next (State.finish_configuration _ _)

/-- SELECT (R240). -/
theorem selectAdvance_keepsConfiguration (d : Nat) (c : BitVec 2) (pos : SelectPos) (s : State) :
    KeepsConfiguration s (selectAdvance d c pos s) := by
  unfold selectAdvance
  split
  · exact .fault _
  · cases pos <;> dsimp only
    case attach =>
      split
      · exact .next rfl
      · exact .next (s.drawn.finish_configuration _)
    case enableRead | modeRead | modeSetRead | chipRead | divisor => exact .next rfl
    case enableWrite | modeClear | modeSet => exact (s.writeCs_keepsConfiguration _).andThen fun _ => .next rfl
    case chipWrite => exact (s.writeCs_keepsConfiguration _).andThen fun u => .next (u.finish_configuration _)

/-- TRANSFER (R260): it writes a device's cursors and remaining count, which are no part of its configuration. -/
theorem transferAdvance_keepsConfiguration (d : Nat) (src dst : Option Nat) (n : Word) (pos : TransferPos)
    (s : State) : KeepsConfiguration s (transferAdvance d src dst n pos s) := by
  unfold transferAdvance
  cases pos <;> dsimp only
  case chunkPump | polledPump => exact execPump_keepsConfiguration d src dst n n s
  case armClear | taSet | clearWrite => exact (s.writeCs_keepsConfiguration _).andThen fun _ => .next rfl
  case armTa | release => exact (s.writeCs_keepsConfiguration _).andThen fun u => .next (u.finish_configuration _)
  case armDlen | armClearRead | armTaRead | taRead | clearRead | releaseRead | enterCritical => exact .next rfl
  case armIn | armOut | chunkIn => exact .next (s.updateDev_configuration d fun _ => rfl)
  case armRemaining | chunkRemaining => exact .next (s.updateDev_configuration d fun D => D.setRemaining_config _)
  case chunkOut =>
    exact .next ((State.finish_configuration _ _).trans (s.updateDev_configuration d fun _ => rfl))
  case logUnsupported | abandon => exact .next (State.finish_configuration _ _)
  case leaveCritical =>
    split
    · exact .next (State.finish_configuration _ _)
    · exact .next rfl

/-- PUMP (R250). -/
theorem pumpAdvance_keepsConfiguration (d : Nat) (src dst : Option Nat) (q : TransferRequest) (pos : PumpPos)
    (s : State) : KeepsConfiguration s (pumpAdvance d src dst q pos s) := by
  cases pos with
  | waitTxd _ | waitRxd _ => exact .next (State.poll_configuration rfl)
  | waitDone _ => exact .next (State.poll_configuration (s.readCs.finish_configuration _))
  | push | pushFiller => exact (s.writeFifo_keepsConfiguration _).andThen fun _ => .next rfl
  | pop | drainPop => exact s.readFifo_keepsConfiguration.andThen fun _ => .next rfl
  | store _ | drainRead => exact .next rfl

/-- IRQ_HANDLER (R280). -/
theorem handlerAdvance_keepsConfiguration (d : Nat) (pos : HandlerPos) (s : State) :
    KeepsConfiguration s (handlerAdvance d pos s) := by
  unfold handlerAdvance
  split
  · exact .fault _
  · cases pos <;> dsimp only
    case chunkA | chunkB => exact execTransfer_keepsConfiguration d _ _ _ s
    case afterA | afterB =>
      split
      · exact .next rfl
      · exact .next (s.finish_configuration _)
    case clearTa => exact (s.writeCs_keepsConfiguration _).andThen fun _ => .next rfl
    case callbackA => exact .next rfl
    case ret => exact .next (s.finish_configuration _)

/-- Whichever operation is running. -/
theorem advance_keepsConfiguration (f : Frame) (s : State) : KeepsConfiguration s (advance f s) := by
  cases f with
  | initF pos => exact initAdvance_keepsConfiguration pos s
  | selectF d c pos => exact selectAdvance_keepsConfiguration d c pos s
  | transferF d src dst n pos => exact transferAdvance_keepsConfiguration d src dst n pos s
  | pumpF d src dst q pos => exact pumpAdvance_keepsConfiguration d src dst q pos s
  | handlerF d pos => exact handlerAdvance_keepsConfiguration d pos s

/-! ### A step of each agent -/

/-- A line of the program. -/
theorem runLine_keepsConfiguration (l : HostLine) (s : State) : KeepsConfiguration s (runLine l s) := by
  intro t h
  rcases runLine_next h with ⟨dst, i, u, hexec, rfl⟩ | ⟨host, ie, rfl⟩
  · obtain ⟨host, hdone⟩ := u.lineDone_eq i
    rw [hdone]
    exact exec_keepsConfiguration i (s.issued dst) u hexec
  · rfl

theorem hostStep_keepsConfiguration (s : State) : KeepsConfiguration s (hostStep s) := by
  unfold hostStep
  split
  · exact advance_keepsConfiguration _ s
  · exact execIrqHandler_keepsConfiguration s
  · split
    · exact runLine_keepsConfiguration _ s
    · exact .fault _

/-- R190, R191, R193: LOAD, EDGE and STORE write the block, the history and draws. -/
theorem engineStep_keepsConfiguration (s : State) : KeepsConfiguration s (engineStep s) := by
  intro t h
  obtain ⟨-, ⟨hl, rfl⟩ | ⟨-, -, rfl⟩ | ⟨-, -, rfl⟩⟩ := engineStep_next h
  · obtain ⟨b, q, m, env, -, hload⟩ := State.load_frame hl
    rw [hload]
    rfl
  · obtain ⟨shRx, m, k, env, hedge, -, -⟩ := s.edgeStep_frame
    rw [hedge]
    rfl
  · rfl

theorem agentStep_keepsConfiguration (a : Agent) (s : State) : KeepsConfiguration s (agentStep a s) := by
  cases a with
  | host => exact hostStep_keepsConfiguration s
  | engine => exact engineStep_keepsConfiguration s
  | delivery =>
    intro t h
    obtain ⟨-, rfl⟩ := deliveryStep_next h
    rfl

/-- R8, R383: choosing the agent changes the environment alone, and the agent's step keeps the configuration. -/
theorem step_keepsConfiguration (s : State) : KeepsConfiguration s (step s) := by
  intro t h
  obtain ⟨-, a, s1, t1, hchoose, hagent, rfl⟩ := step_next h
  obtain ⟨hs1, -, -⟩ := State.chooseAgent_frame hchoose
  calc t1.configuration
      = s1.configuration := agentStep_keepsConfiguration a s1 t1 hagent
    _ = s.configuration := by rw [hs1]; rfl

/-- R60: whatever a step does, the history it leaves begins with the history it found. -/
theorem step_appends (h : step s = .next t) : ∃ es, t.book.events = s.book.events ++ es := by
  cases step_progress h with
  | quiet hq =>
    obtain ⟨es, hes, -⟩ := hq.history
    exact ⟨es, hes⟩
  | arms hs hbook hothers => exact ⟨[], by rw [hbook, List.append_nil]⟩
  | callsBack hs hbook hdevs => exact ⟨_, hbook⟩

/-- Settles O56: no agent's step writes the configuration, and each only appends to the history. -/
theorem configurationIsFixedAndHistoryOnlyGrows : Obligations.ConfigurationIsFixedAndHistoryOnlyGrows := by
  intro s t h
  obtain ⟨hcfg, hdevs⟩ := Prod.mk.inj (step_keepsConfiguration s t h)
  exact ⟨hcfg, hdevs, step_appends h⟩

end Sys2Proof.Machine
end

/-! ## The end of a run in which no agent can step (R406, R407) -/

section
namespace Sys2Proof.Machine

open Sys2Proof.Spec

variable {s : State}

/-- Where no agent has a step and the run may go on, its end is final or stuck. -/
theorem step_of_noAgent (hrun : s.runStop = none) (hnone : s.enabledAgents = []) : step s = s.endOfRun := by
  have hchoose : s.chooseAgent = none := by rw [State.chooseAgent, hnone]
  rw [step, hrun, hchoose]

/-- R22: with the program complete and nothing running the HOST has no step. -/
theorem State.hostEnabled_of_complete (hi : idle s) (hpc : s.host.lines.length ≤ s.host.pc) :
    s.hostEnabled = false := by
  obtain ⟨hctx, hthread⟩ := hi
  simp [State.hostEnabled, hctx, hthread, hpc]

/-- R190, R191, R193: with no byte in flight and none waiting the ENGINE has no step. -/
theorem State.engineEnabled_of_empty (hbusy : s.eng.busy = false) (htx : s.eng.txq = []) : s.engineEnabled = false := by
  simp [State.engineEnabled, State.loadEnabled, State.edgeEnabled, State.storeEnabled, hbusy, htx]

/-- R341: without IRQ, or with it masked, no delivery is enabled. -/
theorem State.deliveryEnabled_of_quiet (h : s.irq = false ∨ s.seq.ie = false) : s.deliveryEnabled = false := by
  rcases h with h | h <;> simp [State.deliveryEnabled, h]

/-- R406: with the program complete, nothing running, no byte in the engine and no delivery enabled, no agent has a
step. -/
theorem State.enabledAgents_of_complete (hi : idle s) (hpc : s.host.lines.length ≤ s.host.pc)
    (hbusy : s.eng.busy = false) (htx : s.eng.txq = []) (hquiet : s.irq = false ∨ s.seq.ie = false) :
    s.enabledAgents = [] := by
  simp [State.enabledAgents, State.hostEnabled_of_complete hi hpc, State.engineEnabled_of_empty hbusy htx,
    State.deliveryEnabled_of_quiet hquiet]

/-- R406: such a state is final exactly when no device has a count remaining. -/
theorem State.final_iff_of_complete (hrun : s.runStop = none) (hi : idle s) (hpc : s.host.lines.length ≤ s.host.pc)
    (hbusy : s.eng.busy = false) (htx : s.eng.txq = []) (hquiet : s.irq = false ∨ s.seq.ie = false) :
    s.final = true ↔ ∀ D ∈ s.seq.devs, D.remaining = 0 := by
  obtain ⟨hfaults, hrefused, -, -⟩ := State.runStop_none hrun
  obtain ⟨hctx, hthread⟩ := hi
  have hmasked : (s.irq && s.seq.ie) = false := Bool.and_eq_false_iff.mpr hquiet
  simp [State.final, hpc, hctx, hthread, hfaults, hrefused, hbusy, htx, hmasked]

/-- Settles O60: in both clauses no agent has a step, and the remaining counts alone decide how the run ends. -/
theorem runEndsCompleteOrStuck : Obligations.RunEndsCompleteOrStuck := by
  intro s hrun hi hpc hbusy htx
  have hend (hquiet : s.irq = false ∨ s.seq.ie = false) : step s = s.endOfRun :=
    step_of_noAgent hrun (State.enabledAgents_of_complete hi hpc hbusy htx hquiet)
  refine ⟨fun hdone hquiet => ?_, fun d D hdev harmed hintd hintr => ?_⟩
  · have hfinal : s.final = true := (State.final_iff_of_complete hrun hi hpc hbusy htx hquiet).mpr hdone
    exact ⟨hfinal, by rw [hend hquiet, State.endOfRun, if_pos hfinal]⟩
  · have hirq : s.irq = false := State.irq_of_disabled ((intd_eq s).trans hintd) ((intr_eq s).trans hintr)
    have hquiet : s.irq = false ∨ s.seq.ie = false := .inl hirq
    have hfinal : s.final = false := by
      rw [Bool.eq_false_iff, ne_eq, State.final_iff_of_complete hrun hi hpc hbusy htx hquiet]
      exact fun hdone => harmed.ne' (hdone D (List.mem_of_getElem? hdev))
    exact ⟨hfinal, by rw [hend hquiet, State.endOfRun, hfinal, if_neg Bool.false_ne_true]⟩

end Sys2Proof.Machine
end

/-! ## The state after reset (R371, R381) -/

section
namespace Sys2Proof.Machine

/-- R205, R371: with TA = 0 and every polarity bit 0 each chip-select line stands at its inactive level, 1. -/
theorem State.reset_csLine (n : Fin 4) : State.reset.csLine n = true := by
  have hagrees : ∀ k < 3, State.reset.bank.cs.getLsbD (21 + k) = State.reset.bank.cs.getLsbD 6 := by decide
  have hlevel := State.csLine_inactive (State.polarityDiffers_of_agrees (hagrees n.val)) (by decide)
  exact hlevel.trans (by decide)

/-- R50, R371: no device has buffers or a count after reset. -/
theorem State.reset_devs : ∀ D ∈ State.reset.seq.devs, D.src = none ∧ D.dst = none ∧ D.remaining = 0 := by
  decide

/-- Settles O5: the stored values are those of `State.reset`, and the flags and lines follow by their equations. -/
theorem resetLeavesTheTabledValues : Obligations.ResetLeavesTheTabledValues := by
  have hcs : State.reset.csWord = 0x00041000#32 := by decide
  have hirq : State.reset.irq = false := State.irq_of_inactive (by decide)
  exact ⟨rfl, hcs, rfl, rfl, rfl, rfl, rfl, State.reset_csLine, hirq, State.reset_devs, rfl, rfl, rfl, rfl, rfl⟩

/-- Settles O6: the stored CS holds RW fields only, both FIFOs and the memory are empty, and nothing runs or is
attached. -/
theorem resetMeetsTheInvariant : Obligations.ResetMeetsTheInvariant where
  csStoredOnly := by decide
  txBound := Nat.zero_le _
  rxBound := Nat.zero_le _
  edgeBound := Nat.zero_le _
  idleEdge _ := rfl
  busyActive h := nomatch h
  rxRoom h := nomatch h
  memWf := rfl
  threadOnly _ := rfl
  handlerMasked h := nomatch h
  handlerAttached h := nomatch h
  attachedCtx := rfl
  ctxDevice _ h := nomatch h
  remainingRange := by decide
  threadOk := rfl
  intrOk := rfl
  savedMasked _ h := nomatch h

end Sys2Proof.Machine
end
